-- ==== Sys2Proof/Word.lean ====
section
/-!
DEFINITION. The word types of the CORE (spec/00_scope.md R8, R11): every value is unsigned, and
arithmetic on `U32` wraps modulo 2^32, which is what `BitVec 32` arithmetic does.
-/
namespace Sys2Proof

/-- R11 `u8`: `TCNT` and `T` (spec/10_state.md R22, R29). -/
abbrev U8 := BitVec 8

/-- R11 `u32`: `OVF`, `X` and `RESULT` (spec/10_state.md R21, R30, R31). -/
abbrev U32 := BitVec 32

/-- R80: an operation word `op[3:0]`, format `OP4`. -/
abbrev OpWord := BitVec 4

/-- R11 `zext_32(v)`: the `u8` value `v` as a `u32` with the same numeric value. -/
def zext32 (v : U8) : U32 := BitVec.zeroExtend 32 v

end Sys2Proof
end

