-- ==== Sys2Proof/Config.lean ====
section
/-!
DEFINITION. What is fixed before reset (spec/00_scope.md R7, R9; spec/70_reset_and_hazards.md R273),
and the free values: constants with no body, of which nothing can be proved.
-/
namespace Sys2Proof

/-- A WELL-FORMED configuration (R9), as the machine carries it. R7 gives it as the model's argument;
`exec`'s form has no room for one, so it stands in `State` as plain data that no operation changes
(notes/assumptions/1.md). An ill-formed configuration cannot be written in this type: the factor is in
1..99 by the type of `factorIndex`, and `BuildConfig.configure` makes a `Config` only from a
recognised frequency. -/
structure Config where
  /-- R7 `MICROS_ENABLED`, R41 `cfg_micros_enabled`. -/
  microsEnabled : Bool
  /-- R7 `FREQ` in Hz, R41 `cfg_freq`. -/
  freqHz : Nat
  /-- `K(FREQ) - 1`, so that `K(FREQ)` lies in 1..99 (R9, R175). -/
  factorIndex : Fin 99
  /-- R7 `PROMPT_DISPATCH` (spec/60_exceptions.md R236). -/
  promptDispatch : Bool
  deriving DecidableEq, Repr

/-- The configuration as a build gives it, before R9's check: the selected frequency and the table of
recognised frequencies with their factors (`FREQS` is the table's first column, `K` its second; R7, R175).
The table itself is lost (R176), so it is an argument. -/
structure BuildConfig where
  microsEnabled : Bool
  freqHz : Nat
  table : List (Nat × Nat)
  promptDispatch : Bool
  deriving DecidableEq, Repr

/-- FREE VALUE (notes/assumptions/2.md): the `FREQ` of the configuration that `State.reset` carries. The
set `FREQS` is OPEN (R7, D12). -/
opaque Config.anyFreqHz : Nat

/-- FREE VALUE (notes/assumptions/2.md): `K(FREQ) - 1` of the configuration that `State.reset` carries.
`K` is OPEN (R7, R176, D11). -/
opaque Config.anyFactorIndex : Fin 99

/-- FREE VALUE (notes/assumptions/3.md): what `TCNT` holds at reset. R22: "The model draws `TCNT` at reset
as any value in `0..255`. No rule may assume a particular reset value." -/
opaque Config.tcntAtReset : U8

/-- FREE VALUE (notes/assumptions/4.md): which enabled step is taken at the `n`-th boundary at which the
outside offers none. R13: "Any enabled step of any agent may be taken next". -/
opaque Config.draw : Nat → Nat

end Sys2Proof
end

