-- ==== Sys2Proof/Syntax.lean ====
section
/-!
DEFINITION. The operations of the CORE, one constructor per row of spec/opcode_table.json
(spec/30_encoding.md R81), the agent each is bound to (R85), and the pseudo-operations (R89).
No operation has an operand of its own (R82).
-/
namespace Sys2Proof

/-- The three agents that take steps (spec/20_memory.md R69). -/
inductive Agent where
  /-- the timer -/
  | tmr
  /-- the interrupt unit -/
  | irq
  /-- the foreground, and the host code that runs in it -/
  | fg
  deriving DecidableEq, Repr

/-- The fourteen operations of R81, in the order of their codes. -/
inductive Instr where
  | tick
  | ovfIrq
  | msSave
  | msRaw
  | msCli
  | msOvf
  | msRestore
  | msScale
  | inDiv
  | inOie
  | inZero
  | inSei
  | envCli
  | envSei
  deriving DecidableEq, Repr

/-- Every operation, in the order of R81. -/
def Instr.all : List Instr :=
  [.tick, .ovfIrq, .msSave, .msRaw, .msCli, .msOvf, .msRestore, .msScale,
   .inDiv, .inOie, .inZero, .inSei, .envCli, .envSei]

/-- R85: the one agent whose step the operation is. -/
def Instr.agent : Instr → Agent
  | .tick => .tmr
  | .ovfIrq => .irq
  | .msSave | .msRaw | .msCli | .msOvf | .msRestore | .msScale => .fg
  | .inDiv | .inOie | .inZero | .inSei => .fg
  | .envCli | .envSei => .fg

/-- R81: the mnemonic column, which is how a program is written (R88). -/
def Instr.mnemonic : Instr → String
  | .tick => "TICK"
  | .ovfIrq => "OVF_IRQ"
  | .msSave => "MS_SAVE"
  | .msRaw => "MS_RAW"
  | .msCli => "MS_CLI"
  | .msOvf => "MS_OVF"
  | .msRestore => "MS_RESTORE"
  | .msScale => "MS_SCALE"
  | .inDiv => "IN_DIV"
  | .inOie => "IN_OIE"
  | .inZero => "IN_ZERO"
  | .inSei => "IN_SEI"
  | .envCli => "ENV_CLI"
  | .envSei => "ENV_SEI"

/-- The pseudo-operations of R89. -/
inductive Pseudo where
  | micros
  | init
  | overflow
  deriving DecidableEq, Repr

/-- R89: what a pseudo-operation expands to. Steps of `TMR` and `IRQ` may come between the operations of
an expansion; it fixes only the order of the foreground's. -/
def Pseudo.expand (microsEnabled : Bool) : Pseudo → List Instr
  | .micros => [.msSave, .msRaw, .msCli, .msOvf, .msRestore, .msScale]
  | .init => if microsEnabled then [.inDiv, .inOie, .inZero, .inSei] else [.inSei]
  | .overflow => [.ovfIrq]

end Sys2Proof
end

