-- ==== Sys2Proof/WellFormed.lean ====
section
/-!
DEFINITION. The two well-formedness checks of the spec: an operation word that spells an operation
(spec/30_encoding.md R83, R84) and a configuration that may be built (spec/00_scope.md R9).
An `Instr` itself has no field that could be out of range (R80, R82), so every `Instr` is well formed.
-/
namespace Sys2Proof

/-- R81, R84: codes 0 to 13 are defined, `1110` and `1111` are reserved. -/
def OpWord.defined (w : OpWord) : Bool := decide (w.toNat < 14)

/-- R80, R82: an operation is its code alone; there is nothing in it to be ill formed. -/
def Instr.wf (i : Instr) : Bool := decide (i ∈ Instr.all)

/-- R9: why a configuration is refused at configuration time. -/
inductive ConfigError where
  /-- `FREQ` is not in `FREQS` (spec/42_converter.md R181, C3) -/
  | unrecognizedFrequency (freqHz : Nat)
  /-- `K(FREQ)` is not in 1..99 -/
  | factorOutOfRange (k : Nat)
  deriving DecidableEq, Repr

/-- R175: `K(f)`, looked up in the build's table; absent for an unrecognised frequency. -/
def BuildConfig.lookupFactor : List (Nat × Nat) → Nat → Option Nat
  | [], _ => none
  | (f, k) :: rows, freq => if f = freq then some k else BuildConfig.lookupFactor rows freq

/-- R9: `FREQ` is in `FREQS` and `1 <= K(FREQ) <= 99`. (`DIV(FREQ)` is computed from `FREQ` by R207, so
R9's third condition holds by definition.) -/
def BuildConfig.wf (b : BuildConfig) : Bool :=
  match BuildConfig.lookupFactor b.table b.freqHz with
  | none => false
  | some k => decide (1 ≤ k ∧ k ≤ 99)

/-- R9: a well-formed build's configuration; any other build is refused here, before a state exists. -/
def BuildConfig.configure (b : BuildConfig) : Except ConfigError Config :=
  match BuildConfig.lookupFactor b.table b.freqHz with
  | none => .error (.unrecognizedFrequency b.freqHz)
  | some k =>
    if h : 1 ≤ k ∧ k ≤ 99 then
      .ok { microsEnabled := b.microsEnabled, freqHz := b.freqHz,
            factorIndex := ⟨k - 1, by omega⟩, promptDispatch := b.promptDispatch }
    else .error (.factorOutOfRange k)

end Sys2Proof
end

