-- ==== Sys2Proof/Decode.lean ====
section
/-!
DEFINITION. Decoding and encoding of the 4-bit operation words (spec/30_encoding.md R80 to R87).
-/
namespace Sys2Proof

/-- Why a word or a list of bytes spells no operation. -/
inductive DecodeError where
  /-- codes `1110` and `1111` (R84) -/
  | reserved (w : OpWord)
  /-- a byte whose upper four bits are not 0 holds no 4-bit word (notes/assumptions/5.md) -/
  | notAWord (b : BitVec 8)
  /-- no byte is left -/
  | noByte
  deriving DecidableEq, Repr

/-- R81, R83: the decoder, total on every 4-bit word. -/
def decodeWord (w : OpWord) : Except DecodeError Instr :=
  match w.toNat with
  | 0 => .ok .tick
  | 1 => .ok .ovfIrq
  | 2 => .ok .msSave
  | 3 => .ok .msRaw
  | 4 => .ok .msCli
  | 5 => .ok .msOvf
  | 6 => .ok .msRestore
  | 7 => .ok .msScale
  | 8 => .ok .inDiv
  | 9 => .ok .inOie
  | 10 => .ok .inZero
  | 11 => .ok .inSei
  | 12 => .ok .envCli
  | 13 => .ok .envSei
  | _ => .error (.reserved w)

/-- One operation from the front of a list of bytes, a word to a byte in bits 3..0
(notes/assumptions/5.md: the spec gives the word no place in a byte). -/
def decode : List (BitVec 8) → Except DecodeError (Instr × List (BitVec 8))
  | [] => .error .noByte
  | b :: rest =>
    if b.toNat < 16 then
      match decodeWord (BitVec.ofNat 4 b.toNat) with
      | .ok i => .ok (i, rest)
      | .error e => .error e
    else .error (.notAWord b)

/-- R81: the code of each operation, as the table writes it. -/
def encode : Instr → OpWord
  | .tick => 0b0000#4
  | .ovfIrq => 0b0001#4
  | .msSave => 0b0010#4
  | .msRaw => 0b0011#4
  | .msCli => 0b0100#4
  | .msOvf => 0b0101#4
  | .msRestore => 0b0110#4
  | .msScale => 0b0111#4
  | .inDiv => 0b1000#4
  | .inOie => 0b1001#4
  | .inZero => 0b1010#4
  | .inSei => 0b1011#4
  | .envCli => 0b1100#4
  | .envSei => 0b1101#4

/-- The operation's word in a byte, for `decode`. -/
def encodeByte (i : Instr) : BitVec 8 := BitVec.zeroExtend 8 (encode i)

/-- R88: the operation a line's mnemonic names. -/
def Instr.ofMnemonic (m : String) : Option Instr :=
  Instr.all.find? (fun i => i.mnemonic == m)

/-- R88, R89: a program's mnemonics, each an operation's or a pseudo-operation's, as operations. -/
def assemble (microsEnabled : Bool) : List String → Option (List Instr)
  | [] => some []
  | m :: ms =>
    let head : Option (List Instr) :=
      if m == "MICROS" then some (Pseudo.micros.expand microsEnabled)
      else if m == "INIT" then some (Pseudo.init.expand microsEnabled)
      else if m == "OVERFLOW" then some (Pseudo.overflow.expand microsEnabled)
      else (Instr.ofMnemonic m).map (fun i => [i])
    match head, assemble microsEnabled ms with
    | some is, some rest => some (is ++ rest)
    | _, _ => none

/-- The instruction the decoder reads from a table word: `nbits` bits whose value is `w`, laid out in one
byte. A number that a byte with a clear upper half does not hold is no operation word. -/
def decodeTableWord (nbits w : Nat) : Option Instr :=
  if nbits < 4 ∨ 16 ≤ w then none
  else
    match decode [BitVec.ofNat 8 w] with
    | .ok (i, _) => some i
    | .error _ => none

end Sys2Proof
end

