-- ==== Sys2Proof/Machine/State.lean ====
section
/-!
DEFINITION. The state of the CORE as plain data (spec/10_state.md R20), the reasons a step can stop, and the
state after reset (spec/70_reset_and_hazards.md R270).
-/
namespace Sys2Proof.Machine

/-- R26: the clock-divider (prescaler) select. -/
inductive Divider where
  /-- the timer does not tick -/
  | stop
  /-- one tick per 8 core clock cycles -/
  | d8
  /-- one tick per 64 core clock cycles -/
  | d64
  deriving DecidableEq, Repr

/-- R33: the ten values of `FG.phase`, the foreground's only sequencing state. -/
inductive Phase where
  | boot
  | init2
  | init3
  | init4
  | idle
  | ms2
  | ms3
  | ms4
  | ms5
  | ms6
  deriving DecidableEq, Repr

/-- R39: the two names a model fault can have. -/
inductive ModelFault where
  /-- spec/60_exceptions.md R241 -/
  | useBeforeInit
  /-- spec/60_exceptions.md R242 -/
  | initTwice
  deriving DecidableEq, Repr

/-- R39: `FAULTS`, a set of fault names: one sticky bit a name. -/
structure FaultSet where
  useBeforeInit : Bool
  initTwice : Bool
  deriving DecidableEq, Repr

/-- The RAM of the CORE, byte by byte: the four bytes of `OVF` and nothing else (spec/20_memory.md R60). The
spec gives the cell no address; a key here is a byte's offset in the cell (notes/assumptions/6.md). The
list is canonical: `Memory.wf` in Machine/Ops.lean. -/
abbrev Memory := List Host.Cell

/-- What the outside presents at a boundary between two steps (R41 `tick`, `fg_op`, the CPU's dispatch on
`irq`), and the accesses by the host that the spec names in order to refuse them
(spec/30_encoding.md R86). -/
inductive Offer where
  /-- an operation word offered to an agent -/
  | op (agent : Agent) (word : OpWord)
  /-- host code reads `OVF` itself (spec/20_memory.md R67) -/
  | hostReadsOvf
  /-- host code writes `OVF` itself (spec/20_memory.md R67) -/
  | hostWritesOvf (v : U32)
  /-- `micros` called by another interrupt handler of the host (spec/41_micros_sync.md R141) -/
  | microsInHandler
  deriving DecidableEq, Repr

/-- The state. The first fifteen fields from `mem` to `lost` are the record of R20; `v2` is the ghost that
R14 names beside them; `cfg`, `offers` and `turn` are the model's own (notes/assumptions/1.md and 4.md). -/
structure State where
  /-- the configuration (spec/00_scope.md R7), which no operation changes -/
  cfg : Config
  /-- the RAM that holds `OVF` (R21), read and written whole by `Memory.readOvf` and `Memory.writeOvf` -/
  mem : Memory
  /-- R22: the raw hardware counter -/
  tcnt : U8
  /-- R23: the overflow-interrupt pending flag -/
  pend : Bool
  /-- R24: the overflow-interrupt enable -/
  oie : Bool
  /-- R25: the global interrupt enable -/
  ie : Bool
  /-- R26: the clock-divider select -/
  div : Divider
  /-- R28: the saved interrupt enable, `none` outside an activation -/
  save : Option Bool
  /-- R29: the raw counter value read by `MS_RAW` -/
  t : Option U8
  /-- R30: the overflow counter value read by `MS_OVF` -/
  x : Option U32
  /-- R31: the value the last completed `micros` returned; R41 `micros_out` -/
  result : Option U32
  /-- R32: `IN_SEI` has completed once -/
  initDone : Bool
  /-- R33: the next step the foreground may take -/
  phase : Phase
  /-- R39: the sticky model faults; R41 `fault` -/
  faults : FaultSet
  /-- R40, ghost: the `TICK` steps since the last `IN_ZERO` -/
  ticks : Nat
  /-- R40, ghost: the wraps since the last `IN_ZERO` that found an overflow pending -/
  lost : Nat
  /-- R14 and spec/41_micros_sync.md R132, ghost: `ticks` at the last `MS_RAW` -/
  v2 : Nat
  /-- the model's own: what the outside offers at the coming boundaries, first the next -/
  offers : List Offer
  /-- the model's own: how many boundaries the free choice `Config.draw` has decided -/
  turn : Nat
  deriving DecidableEq, Repr

/-- The registers that hold `none` outside a `micros` activation. -/
inductive Local where
  | save
  | t
  | x
  deriving DecidableEq, Repr

/-- Why the machine stops with a fault. None of them is a fault of the spec: R39's model faults are sticky
bits of `FaultSet`, and the step that raises one goes on. -/
inductive Fault where
  /-- `MS_RESTORE` or `MS_SCALE` reads a local that holds no value. R170: "`T` and `X` always hold values at
  this step"; the same of `SAVE`. Safe: raised in states that no run reaches
  (`Obligations.InvariantRulesOutFaults`). -/
  | localUnset (l : Local)
  /-- `step` finds no offer and no enabled step of any agent. R250: "`CORE` never deadlocks". Safe: raised in
  states that no run reaches (`Obligations.CoreNeverDeadlocks`). -/
  | noEnabledStep
  deriving DecidableEq, Repr

/-- Why an operation has no step (spec/30_encoding.md R86: "A refusal sets no fault and takes no step"). -/
inductive Refusal where
  /-- No meaning yet. Safe; raised by no arm of `exec`. -/
  | notModelled (mnemonic : String)
  /-- R84: code `1110` or `1111`. Raised by `step`. Safe: the spec's own refusal. -/
  | reservedCode (w : OpWord)
  /-- R85: an operation offered to another agent. Raised by `step`. Safe: the spec's own refusal. -/
  | wrongAgent (i : Instr) (a : Agent)
  /-- R86: `FG.phase` does not enable the operation. Raised by every `FG` meaning. Safe: the spec's own. -/
  | notEnabledInPhase (p : Phase)
  /-- R86, R141: `MS_SAVE` inside an activation. Raised by `execMsSave`. Safe: the spec's own refusal. -/
  | activationInProgress
  /-- R86, R204: `MICROS_ENABLED = false`. Raised by every meaning but those of `IN_SEI`, `ENV_CLI` and
  `ENV_SEI`. Safe: the spec's own refusal. -/
  | microsDisabled
  /-- R100: `DIV = STOP`, "`TICK` has no step". Raised by `execTick`. Safe: the spec's own guard. -/
  | timerStopped
  /-- R103, R232: the dispatch condition fails. Raised by `execOvfIrq`. Safe: the spec's own guard. -/
  | notDispatchable
  /-- R236: with `PROMPT_DISPATCH = true`, "no `FG` step is taken while the guard holds". Raised by every
  `FG` meaning. Safe: the spec's own rule. -/
  | dispatchFirst
  /-- R67, R86: a host read or write of `OVF`. Raised by `step`. Safe: the spec's own refusal. -/
  | hostAccessToOvf
  /-- R141, R86: `micros` from a host interrupt handler. Raised by `step`. Safe: the spec's own refusal. -/
  | microsFromHandler
  deriving DecidableEq, Repr

/-- The outcome of a step of this machine. -/
abbrev Result := Host.Outcome State Fault Refusal

/-- R270: the state after reset, for a configuration and for the value drawn for `TCNT`. The memory lists
nothing, so `OVF` reads 0 (R21). -/
def State.resetWith (cfg : Config) (tcntDraw : U8) : State where
  cfg := cfg
  mem := []
  tcnt := tcntDraw
  pend := false
  oie := false
  ie := false
  div := .stop
  save := none
  t := none
  x := none
  result := none
  initDone := false
  phase := .boot
  faults := { useBeforeInit := false, initTwice := false }
  ticks := 0
  lost := 0
  v2 := 0
  offers := []
  turn := 0

/-- The state after reset: R270 with the draw of `TCNT` a free value, in a configuration whose `FREQ` and
`K` are free values, with `MICROS_ENABLED = true` and `PROMPT_DISPATCH = false` (its default, R7)
(notes/assumptions/2.md). -/
def State.reset : State :=
  State.resetWith
    { microsEnabled := true, freqHz := Config.anyFreqHz, factorIndex := Config.anyFactorIndex,
      promptDispatch := false }
    Config.tcntAtReset

end Sys2Proof.Machine
end

