-- ==== Sys2Proof/Machine/Flags.lean ====
section
/-!
DEFINITION. Every flag of the CORE and every way one is written (spec/10_state.md R23 to R25, R37). The CORE has
no arithmetic flag: a carry out of the converter is discarded (R37).
-/
namespace Sys2Proof.Machine

/-- R25: write the global interrupt enable. -/
def State.setIe (s : State) (b : Bool) : State := { s with ie := b }

/-- R24: `IN_OIE` sets the overflow-interrupt enable; no step clears it. -/
def State.setOie (s : State) : State := { s with oie := true }

/-- R101, R102: a wrap sets `PEND`, whatever the masks are; a wrap that finds it set is merged, which the
ghost `lost` counts. -/
def State.wrap (s : State) : State :=
  if s.pend then { s with lost := s.lost + 1 } else { s with pend := true }

/-- R41 `irq`: `PEND and OIE`. -/
def State.irq (s : State) : Bool := s.pend && s.oie

/-- R232: the dispatch condition of the overflow interrupt. -/
def State.dispatchable (s : State) : Bool := s.cfg.microsEnabled && s.ie && s.irq

/-- R39, R240: membership in `FAULTS`. -/
def FaultSet.has (f : FaultSet) : ModelFault → Bool
  | .useBeforeInit => f.useBeforeInit
  | .initTwice => f.initTwice

/-- R39: `FAULTS` with one name added. -/
def FaultSet.add (f : FaultSet) : ModelFault → FaultSet
  | .useBeforeInit => { f with useBeforeInit := true }
  | .initTwice => { f with initTwice := true }

/-- R240: `raise Fault(name)`; the step that raises it goes on. -/
def State.raise (s : State) (m : ModelFault) : State := { s with faults := s.faults.add m }

/-- `if b then raise Fault(name)`, as R131, R200 and R203 write it. -/
def State.raiseIf (s : State) (b : Bool) (m : ModelFault) : State := if b then s.raise m else s

end Sys2Proof.Machine
end

