-- ==== Sys2Proof/Machine/Ops.lean ====
section
/-!
DEFINITION. The named operations the meanings are made of: the byte memory that holds `OVF` (spec/20_memory.md),
the entry and return of the overflow interrupt (spec/60_exceptions.md R233, R234), and the guard that every
foreground step shares (spec/10_state.md R33, spec/30_encoding.md R86).
-/
namespace Sys2Proof.Machine

/-- What a byte that memory does not list reads as: 0, since `OVF` is 0 at reset (R21). -/
def Memory.unlisted : BitVec 8 := 0#8

/-- The bytes of RAM that exist: the four of `OVF` (R60). -/
def Memory.size : Nat := 4

/-- Read one byte. -/
def Memory.readByte : Memory → Nat → BitVec 8
  | [], _ => Memory.unlisted
  | (b, v) :: m, a => if b = a then v else Memory.readByte m a

/-- List a byte: at its place in the rising order, or in the place of the entry it had. -/
def Memory.insertByte : Memory → Nat → BitVec 8 → Memory
  | [], a, v => [(a, v)]
  | (b, w) :: m, a, v =>
    if a < b then (a, v) :: (b, w) :: m
    else if a = b then (a, v) :: m
    else (b, w) :: Memory.insertByte m a v

/-- List a byte no longer. -/
def Memory.eraseByte : Memory → Nat → Memory
  | [], _ => []
  | (b, w) :: m, a => if b = a then Memory.eraseByte m a else (b, w) :: Memory.eraseByte m a

/-- Write one byte, keeping the list canonical: rising keys, and no entry for a byte that reads as it would
unlisted. -/
def Memory.writeByte (m : Memory) (a : Nat) (v : BitVec 8) : Memory :=
  if v = Memory.unlisted then Memory.eraseByte m a else Memory.insertByte m a v

/-- `Memory.wf` for a list whose keys start at `lo` or above. -/
def Memory.wfFrom : Nat → Memory → Bool
  | _, [] => true
  | lo, (a, v) :: m =>
    decide (lo ≤ a) && decide (a < Memory.size) && !decide (v = Memory.unlisted) && Memory.wfFrom (a + 1) m

/-- The canonical form of a memory: keys strictly rising, all of them bytes that exist, and no entry equal to
what an unlisted byte reads as. -/
def Memory.wf (m : Memory) : Bool := Memory.wfFrom 0 m

/-- R62 `MemRead(OVF, 4)`, little-endian (R63): byte 0 holds `OVF[7:0]`. -/
def Memory.readOvf (m : Memory) : U32 :=
  Memory.readByte m 3 ++ Memory.readByte m 2 ++ Memory.readByte m 1 ++ Memory.readByte m 0

/-- R62 `MemWrite(OVF, 4, v)`, little-endian (R63). -/
def Memory.writeOvf (m : Memory) (v : U32) : Memory :=
  let m0 := Memory.writeByte m 0 (v.extractLsb' 0 8)
  let m1 := Memory.writeByte m0 1 (v.extractLsb' 8 8)
  let m2 := Memory.writeByte m1 2 (v.extractLsb' 16 8)
  Memory.writeByte m2 3 (v.extractLsb' 24 8)

/-- R21: the overflow counter. -/
def State.ovf (s : State) : U32 := Memory.readOvf s.mem

/-- R21, R62: write the overflow counter; the handler alone does. -/
def State.setOvf (s : State) (v : U32) : State := { s with mem := Memory.writeOvf s.mem v }

/-- R233, taking the overflow interrupt: `PEND` and `IE` are cleared; the foreground's state stays as it is,
and that is the return point. -/
def State.interruptEntry (s : State) : State := { s with pend := false, ie := false }

/-- R104, the handler's body: `OVF` plus 1, modulo 2^32, and nothing else. -/
def State.handlerBody (s : State) : State := s.setOvf (s.ovf + 1)

/-- R105, R234, the return from the overflow interrupt: `IE` is set. -/
def State.interruptReturn (s : State) : State := s.setIe true

/-- R33: the foreground goes to the next row of the phase table. -/
def State.goto (s : State) (p : Phase) : State := { s with phase := p }

/-- R33: the phases of a `micros` activation in progress. -/
def Phase.inActivation : Phase → Bool
  | .ms2 | .ms3 | .ms4 | .ms5 | .ms6 => true
  | .boot | .init2 | .init3 | .init4 | .idle => false

/-- R236: what holds every foreground step back while `PROMPT_DISPATCH = true` and an overflow can be
dispatched. -/
def State.dispatchComesFirst (s : State) : Bool := s.cfg.promptDispatch && s.dispatchable

/-- What every foreground step shares: it has its effect in the phases R33 gives it, with R236 for prompt
dispatch, and otherwise is refused (R86). `needsMicros` says that the operation does not exist when
`MICROS_ENABLED = false` (R86, R204). The order in which the reasons are tested decides only a refusal's
name (notes/assumptions/7.md). -/
def fgStep (needsMicros : Bool) (phases : List Phase) (effect : State → Result) (s : State) : Result :=
  if needsMicros && !s.cfg.microsEnabled then .refused .microsDisabled
  else if ¬ s.phase ∈ phases then .refused (.notEnabledInPhase s.phase)
  else if s.dispatchComesFirst then .refused .dispatchFirst
  else effect s

end Sys2Proof.Machine
end

