-- ==== Sys2Proof/Machine/Operands.lean ====
section
/-!
DEFINITION. The operand forms of spec/30_encoding.md R82: no operation takes an operand from its word; each reads
fixed state elements and the configuration constants `K` and `DIV(FREQ)`.
-/
namespace Sys2Proof.Machine

/-- R175: `K = K(FREQ)`, as a number from 1 to 99. -/
def configK (c : Config) : Nat := c.factorIndex.val + 1

/-- R207: "`DIV(f)` is `D64` when `f >= 4_800_000` Hz and `D8` when `f < 4_800_000` Hz." -/
def dividerFor (freqHz : Nat) : Divider := if 4800000 ≤ freqHz then .d64 else .d8

/-- R7: `DIV(FREQ)`. -/
def configDiv (c : Config) : Divider := dividerFor c.freqHz

/-- R26: the core clock cycles to one tick. No step reads it (R290). -/
def Divider.cyclesPerTick : Divider → Option Nat
  | .stop => none
  | .d8 => some 8
  | .d64 => some 64

/-- R66: `TCNT` read as one byte, without a side effect. -/
def State.readTcnt (s : State) : U8 := s.tcnt

/-- R62, R66: `OVF` read whole, without a side effect. -/
def State.readOvf (s : State) : U32 := s.ovf

/-- Read a foreground local (R28 to R30). One that holds `none` stops the machine: no run gets there, since
an earlier step of the same activation wrote it (R33, R170). -/
def withLocal {α : Type} (l : Local) (v : Option α) (k : α → Result) : Result :=
  match v with
  | some a => k a
  | none => .fault (.localUnset l)

end Sys2Proof.Machine
end

