-- ==== Sys2Proof/Machine/Converter.lean ====
section
/-!
DEFINITION. Unit `CNV` (spec/42_converter.md): step 6 of the `micros` read.
-/
namespace Sys2Proof.Machine

/-- R171: the tick value `C = ((X << 8) + zext_32(T)) mod 2^32`. -/
def combine (x : U32) (t : U8) : U32 := (x <<< 8) + zext32 t

/-- R172: `CONVERT(X, T, K) = (C * K) mod 2^32`. -/
def convert (x : U32) (t : U8) (k : Nat) : U32 := combine x t * BitVec.ofNat 32 k

/-- `MS_SCALE` (R170): `RESULT` gets the time, `T` and `X` hold no value again. -/
def execMsScale (s : State) : Result :=
  fgStep true [.ms6]
    (fun s => withLocal .x s.x fun x => withLocal .t s.t fun t =>
      .next ({ s with result := some (convert x t (configK s.cfg)), t := none, x := none }.goto .idle)) s

end Sys2Proof.Machine
end

