-- ==== Sys2Proof/Machine/Environment.lean ====
section
/-!
DEFINITION. The host's critical section (spec/43_init_env.md R210 to R212).
-/
namespace Sys2Proof.Machine

/-- `ENV_CLI` (R210): `IE` is cleared; the phase stays. -/
def execEnvCli (s : State) : Result := fgStep false [.boot, .idle] (fun s => .next (s.setIe false)) s

/-- `ENV_SEI` (R211): `IE` is set; the phase stays. -/
def execEnvSei (s : State) : Result := fgStep false [.boot, .idle] (fun s => .next (s.setIe true)) s

end Sys2Proof.Machine
end

