-- ==== Sys2Proof/Machine/Init.lean ====
section
/-!
DEFINITION. The timer part of `init` (spec/43_init_env.md R200 to R209).
-/
namespace Sys2Proof.Machine

/-- `IN_DIV` (R200): `DIV` gets `DIV(FREQ)`; a second `init` raises `INIT_TWICE` (R205, R242). -/
def execInDiv (s : State) : Result :=
  fgStep true [.boot, .idle]
    (fun s => .next (({ s with div := configDiv s.cfg }.raiseIf s.initDone .initTwice).goto .init2)) s

/-- `IN_OIE` (R201): the overflow interrupt is enabled. -/
def execInOie (s : State) : Result :=
  fgStep true [.init2] (fun s => .next (s.setOie.goto .init3)) s

/-- `IN_ZERO` (R202): `TCNT` and the ghosts `ticks` and `lost` become 0; `PEND` and `OVF` stay (R209). -/
def execInZero (s : State) : Result :=
  fgStep true [.init3] (fun s => .next ({ s with tcnt := 0#8, ticks := 0, lost := 0 }.goto .init4)) s

/-- R203's guard: `INIT4` when `MICROS_ENABLED = true`, `BOOT` or `IDLE` when it is false (R204). -/
def inSeiPhases (microsEnabled : Bool) : List Phase := if microsEnabled then [.init4] else [.boot, .idle]

/-- `IN_SEI` (R203): `IE` and `INIT_DONE` are set; in the disabled configuration a second `init` raises
`INIT_TWICE` here (R242). -/
def execInSei (s : State) : Result :=
  fgStep false (inSeiPhases s.cfg.microsEnabled)
    (fun s => .next
      (({ s.setIe true with initDone := true }.raiseIf (!s.cfg.microsEnabled && s.initDone) .initTwice).goto
        .idle)) s

end Sys2Proof.Machine
end

