-- ==== Sys2Proof/Machine/Micros.lean ====
section
/-!
DEFINITION. Unit `SYN` (spec/41_micros_sync.md): steps 1 to 5 of the `micros` read.
-/
namespace Sys2Proof.Machine

/-- `MS_SAVE` (R131): `SAVE` gets `IE`; `USE_BEFORE_INIT` is raised when `init` has not completed (R241). -/
def execMsSave (s : State) : Result :=
  if s.cfg.microsEnabled && s.phase.inActivation then .refused .activationInProgress
  else
    fgStep true [.idle, .boot]
      (fun s => .next (({ s with save := some s.ie }.raiseIf (!s.initDone) .useBeforeInit).goto .ms2)) s

/-- `MS_RAW` (R132): `T` gets `TCNT`; the ghost `V2` is `ticks` at this step. -/
def execMsRaw (s : State) : Result :=
  fgStep true [.ms2] (fun s => .next ({ s with t := some s.readTcnt, v2 := s.ticks }.goto .ms3)) s

/-- `MS_CLI` (R133): the critical section begins. -/
def execMsCli (s : State) : Result :=
  fgStep true [.ms3] (fun s => .next ((s.setIe false).goto .ms4)) s

/-- `MS_OVF` (R134): `X` gets `OVF`. -/
def execMsOvf (s : State) : Result :=
  fgStep true [.ms4] (fun s => .next ({ s with x := some s.readOvf }.goto .ms5)) s

/-- `MS_RESTORE` (R135): `IE` gets `SAVE`, and the critical section ends. -/
def execMsRestore (s : State) : Result :=
  fgStep true [.ms5]
    (fun s => withLocal .save s.save fun saved => .next ({ s.setIe saved with save := none }.goto .ms6)) s

end Sys2Proof.Machine
end

