-- ==== Sys2Proof/Machine/Overflow.lean ====
section
/-!
DEFINITION. Unit `OVH` (spec/40_overflow.md): the timer's tick and the overflow interrupt.
-/
namespace Sys2Proof.Machine

/-- R100, the body of `TICK`: `TCNT` plus 1 modulo 256, the ghost `ticks` plus 1, and a wrap from 255. -/
def State.tickOnce (s : State) : State :=
  let counted := { s with tcnt := s.tcnt + 1, ticks := s.ticks + 1 }
  if s.tcnt = 255#8 then counted.wrap else counted

/-- `TICK` (R100 to R102): enabled when `MICROS_ENABLED = true` and `DIV != STOP`. -/
def execTick (s : State) : Result :=
  if !s.cfg.microsEnabled then .refused .microsDisabled
  else if s.div = .stop then .refused .timerStopped
  else .next s.tickOnce

/-- `OVF_IRQ` (R103): entry, handler body and return as one step, when the dispatch condition holds (R232). -/
def execOvfIrq (s : State) : Result :=
  if !s.cfg.microsEnabled then .refused .microsDisabled
  else if !s.dispatchable then .refused .notDispatchable
  else .next s.interruptEntry.handlerBody.interruptReturn

end Sys2Proof.Machine
end

