-- ==== Sys2Proof/Machine/Dispatch.lean ====
section
/-! DEFINITION. The dispatch: one arm per operation of spec/30_encoding.md R81. -/

namespace Sys2Proof.Machine

def exec (i : Instr) (s : State) : Host.Outcome State Fault Refusal :=
  match i with
  | .tick => Sys2Proof.Machine.execTick s
  | .ovfIrq => Sys2Proof.Machine.execOvfIrq s
  | .msSave => Sys2Proof.Machine.execMsSave s
  | .msRaw => Sys2Proof.Machine.execMsRaw s
  | .msCli => Sys2Proof.Machine.execMsCli s
  | .msOvf => Sys2Proof.Machine.execMsOvf s
  | .msRestore => Sys2Proof.Machine.execMsRestore s
  | .msScale => Sys2Proof.Machine.execMsScale s
  | .inDiv => Sys2Proof.Machine.execInDiv s
  | .inOie => Sys2Proof.Machine.execInOie s
  | .inZero => Sys2Proof.Machine.execInZero s
  | .inSei => Sys2Proof.Machine.execInSei s
  | .envCli => Sys2Proof.Machine.execEnvCli s
  | .envSei => Sys2Proof.Machine.execEnvSei s

end Sys2Proof.Machine
end

