-- ==== Sys2Proof/Machine/Schedule.lean ====
section
/-!
DEFINITION. Which step comes next (spec/20_memory.md R70, spec/00_scope.md R13): what the outside offers, or,
where it offers nothing, a free choice among the enabled steps.
-/
namespace Sys2Proof.Machine

/-- Whether the operation has a step in this state. -/
def enabled (i : Instr) (s : State) : Bool :=
  match exec i s with
  | .next _ => true
  | .fault _ => false
  | .refused _ => false

/-- The operations that have a step in this state, in the order of R81. -/
def enabledOps (s : State) : List Instr := Instr.all.filter (fun i => enabled i s)

/-- The operation, offered to the agent it is bound to (R85). -/
def offerOf (i : Instr) : Offer := .op i.agent (encode i)

/-- R13: "Any enabled step of any agent may be taken next". The choice is the free value `Config.draw`,
another one each time (notes/assumptions/4.md). -/
def drawOffer (s : State) : Option Offer :=
  let ops := enabledOps s
  (ops[Config.draw s.turn % ops.length]?).map offerOf

/-- What the next boundary brings, and the state with it taken in: the first offer of the outside, else the
free choice. -/
def nextOffer (s : State) : Option (Offer × State) :=
  match s.offers with
  | o :: rest => some (o, { s with offers := rest })
  | [] => (drawOffer s).map (fun o => (o, { s with turn := s.turn + 1 }))

/-- R83 to R86: an offer is decoded, held against its agent, and run; everything else is refused by name. -/
def runOffer (o : Offer) (s : State) : Result :=
  match o with
  | .op a w =>
    match decodeWord w with
    | .ok i => if i.agent = a then exec i s else .refused (.wrongAgent i a)
    | .error _ => .refused (.reservedCode w)
  | .hostReadsOvf => .refused .hostAccessToOvf
  | .hostWritesOvf _ => .refused .hostAccessToOvf
  | .microsInHandler => .refused .microsFromHandler

/-- One step: the next boundary's offer is run. A state with no offer and no enabled step is stuck. -/
def stepOnce (s : State) : Result :=
  match nextOffer s with
  | some (o, s') => runOffer o s'
  | none => .fault .noEnabledStep

/-- The offer that spells the table word `w`. A number of more than four bits is no operation word; it is
placed as the reserved code `1111`, which is refused. -/
def offerOfTableWord (w : Nat) : Offer :=
  if w < 16 then
    let word := BitVec.ofNat 4 w
    match decodeWord word with
    | .ok i => offerOf i
    | .error _ => .op .fg word
  else .op .fg 0b1111#4

/-- The phase R33 has the operation in, nearest to the one the foreground is in. -/
def phaseFor (s : State) : Instr → Phase
  | .tick | .ovfIrq => s.phase
  | .msSave | .inDiv | .envCli | .envSei => if s.phase = .boot then .boot else .idle
  | .msRaw => .ms2
  | .msCli => .ms3
  | .msOvf => .ms4
  | .msRestore => .ms5
  | .msScale => .ms6
  | .inOie => .init2
  | .inZero => .init3
  | .inSei => if s.cfg.microsEnabled then .init4 else if s.phase = .boot then .boot else .idle

/-- `FG.phase` "stands in for a program counter" (R33), and an operation whose guard fails has no step to
fetch (R86). This puts the machine where the operation's step is the next one: the phase of the operation, a
value in the locals that its phase has, a running timer for `TICK`, a dispatchable overflow for `OVF_IRQ`
(notes/assumptions/8.md). What already holds is left as it is. -/
def placeFor (i : Instr) (s : State) : State :=
  match i with
  | .tick => { s with div := if s.div = .stop then .d64 else s.div }
  | .ovfIrq => { s with pend := true, oie := true, ie := true }
  | .msRestore => { s with phase := phaseFor s i, save := some (s.save.getD s.ie) }
  | .msScale => { s with phase := phaseFor s i, t := some (s.t.getD s.tcnt), x := some (s.x.getD s.ovf) }
  | .msSave | .msRaw | .msCli | .msOvf => { s with phase := phaseFor s i }
  | .inDiv | .inOie | .inZero | .inSei => { s with phase := phaseFor s i }
  | .envCli | .envSei => { s with phase := phaseFor s i }

/-- `s` with the table word `w` offered at the next boundary, in a state in which its step exists. -/
def placeTableWord (w : Nat) (s : State) : State :=
  let placed := { s with offers := offerOfTableWord w :: s.offers }
  match decodeTableWord 8 w with
  | some i => placeFor i placed
  | none => placed

end Sys2Proof.Machine
end

