-- ==== Sys2Proof/Machine/Step.lean ====
section
/-! DEFINITION. The step of the machine, and the placing of one instruction for it to run. -/

namespace Sys2Proof.Machine

/-- One step of one agent (spec/00_scope.md R13). -/
def step (s : State) : Host.Outcome State Fault Refusal := stepOnce s

/-- `s` with the instruction whose bits are `w` as the one the next step runs. -/
def State.withFetchWord (s : State) (nbits w : Nat) : State :=
  if nbits < 4 then s else placeTableWord w s

end Sys2Proof.Machine
end

