-- ==== Sys2Proof/Safety.lean ====
section
/-!
DEFINITION. The terms in which claims about the CORE are stated: runs and interleavings (spec/20_memory.md R70),
the invariants of every step, the counting of overflows (spec/40_overflow.md R109, R110), the outcome of a read
(spec/41_micros_sync.md R142), and fair runs (R236, R285).
-/
namespace Sys2Proof.Machine

/-- The code and the agent that the rule of an operation names in its first line (R81, R85). -/
def SpelledAs (w : OpWord) (i : Instr) (a : Agent) : Prop := decodeWord w = .ok i ∧ i.agent = a

/-- A run of the operations of a list, in order: an interleaving of the three agents (R70). It stops at the
first operation that has no step. -/
def execAll : List Instr → State → Result
  | [], s => .next s
  | i :: is, s =>
    match exec i s with
    | .next t => execAll is t
    | .fault f => .fault f
    | .refused r => .refused r

/-- Operations of `TMR` and `IRQ` only: what may come between two foreground steps (R89, R139). -/
def Background (is : List Instr) : Prop := ∀ i ∈ is, i.agent ≠ .fg

/-- `TICK` operations only. -/
def TicksOnly (is : List Instr) : Prop := ∀ i ∈ is, i = .tick

/-- A state with the ghosts of R14 and R40 wiped out. -/
def State.eraseGhosts (s : State) : State := { s with ticks := 0, lost := 0, v2 := 0 }

/-- An outcome with a function applied to its next state. -/
def mapNext (f : State → State) : Result → Result
  | .next s => .next (f s)
  | .fault r => .fault r
  | .refused r => .refused r

/-- R240: "A state with a non-empty `FAULTS` set is never a successful end of a run." -/
def State.faultFree (s : State) : Prop := s.faults.useBeforeInit = false ∧ s.faults.initTwice = false

/-! ### The invariant -/

/-- R28 to R30, R134, R170: which locals hold a value in which phase, and what `IE` is inside the critical
section and before it. -/
def LocalsInv (s : State) : Prop :=
  match s.phase with
  | .boot | .init2 | .init3 | .init4 | .idle => s.save = none ∧ s.t = none ∧ s.x = none
  | .ms2 => s.save = some s.ie ∧ s.t = none ∧ s.x = none
  | .ms3 => s.save = some s.ie ∧ s.t.isSome ∧ s.x = none
  | .ms4 => s.save.isSome ∧ s.t.isSome ∧ s.x = none ∧ s.ie = false
  | .ms5 => s.save.isSome ∧ s.t.isSome ∧ s.x.isSome ∧ s.ie = false
  | .ms6 => s.save = none ∧ s.t.isSome ∧ s.x.isSome

/-- How far boot has come (R24, R26, R32, R272), when `MICROS_ENABLED = true`. -/
structure BootInv (s : State) : Prop where
  divValue : s.div = .stop ∨ s.div = configDiv s.cfg
  bootIsFresh : s.phase = .boot → s.initDone = false ∧ s.div = .stop ∧ s.oie = false
  afterInDiv : s.phase = .init2 ∨ s.phase = .init3 ∨ s.phase = .init4 → s.div = configDiv s.cfg
  afterInOie : s.phase = .init3 ∨ s.phase = .init4 → s.oie = true
  afterInit : s.initDone = true → s.div = configDiv s.cfg ∧ s.oie = true
  oieNeedsDiv : s.oie = true → s.div = configDiv s.cfg
  pendNeedsDiv : s.pend = true → s.div = configDiv s.cfg
  ticksNeedDiv : s.ticks ≠ 0 → s.div = configDiv s.cfg
  useNeedsInit : s.initDone = true ∨ s.faults.useBeforeInit = true ∨
    s.phase = .boot ∨ s.phase = .init2 ∨ s.phase = .init3 ∨ s.phase = .init4
  twiceNeedsInit : s.faults.initTwice = true → s.initDone = true

/-- R6, R20: when `MICROS_ENABLED = false`, only `IE`, `INIT_DONE`, `FG.phase` and `FAULTS` exist. The other
fields keep their reset values. -/
structure DisabledInv (s : State) : Prop where
  phaseValue : s.phase = .boot ∨ s.phase = .idle
  bootIsFresh : s.phase = .boot ↔ s.initDone = false
  memory : s.mem = []
  timer : s.pend = false ∧ s.oie = false ∧ s.div = .stop
  noResult : s.result = none
  ghosts : s.ticks = 0 ∧ s.lost = 0 ∧ s.v2 = 0
  noUseBeforeInit : s.faults.useBeforeInit = false

/-- The invariant of every step. -/
structure StateInv (s : State) : Prop where
  memory : Memory.wf s.mem = true
  locals : LocalsInv s
  boot : s.cfg.microsEnabled = true → BootInv s
  disabled : s.cfg.microsEnabled = false → DisabledInv s

/-! ### Counting overflows -/

/-- Whether the operation is a wrap: a tick that takes `TCNT` from 255 to 0 (R16). -/
def isWrap (i : Instr) (s : State) : Bool := decide (i = .tick) && decide (s.tcnt = 255#8)

/-- How many wraps the run makes. -/
def wraps : List Instr → State → Nat
  | [], _ => 0
  | i :: is, s =>
    (isWrap i s).toNat +
      match exec i s with
      | .next t => wraps is t
      | .fault _ => 0
      | .refused _ => 0

/-- R109's premise: from `s` to `t`, `n` wraps, each followed by an `OVF_IRQ` before the next wrap, the last
operation being the last of those dispatches. -/
inductive CountedWraps : Nat → State → State → Prop where
  | none (s : State) : CountedWraps 0 s s
  | more {n : Nat} {s u v t : State} {is : List Instr} (before : CountedWraps n s u)
      (run : execAll is u = .next v) (noDispatch : Instr.ovfIrq ∉ is) (oneWrap : wraps is u = 1)
      (dispatch : exec .ovfIrq v = .next t) : CountedWraps (n + 1) s t

/-- What R110 counts, as a number modulo 2^32: the dispatched, the pending and the lost overflows. -/
def State.overflowsSeen (s : State) : Nat := s.ovf.toNat + s.pend.toNat + s.lost

/-! ### The outcome of a read -/

/-- R142: `w`, the wraps between `MS_RAW` and `MS_OVF`, in the state that `MS_OVF` leaves (which does not
change `ticks`, so it is `n4`). -/
def State.wrapsBetweenReads (s : State) : Int := (s.ticks / 256 : Nat) - (s.v2 / 256 : Nat)

/-- R142: the tear `e = w - P4 - L4`, in the state that `MS_OVF` leaves (which changes neither `PEND` nor
`lost`). -/
def State.tear (s : State) : Int := s.wrapsBetweenReads - (s.pend.toNat : Int) - (s.lost : Int)

/-- R143: the names of what a read can return. -/
inductive ReadOutcome where
  /-- both values of one overflow period: `e = 0` -/
  | consistent
  /-- the raw value from before an overflow increment with the count from after it: `e = 1` -/
  | forwardTear
  /-- the raw value from after a wrap with the count from before it (stale count): `e = -1` -/
  | backwardTear
  /-- no row of R143's table: a read outside that rule's premises -/
  | beyond
  deriving DecidableEq, Repr

/-- R143, R145: which outcome the read has, in the state that `MS_OVF` leaves. -/
def State.readOutcome (s : State) : ReadOutcome :=
  if s.tear = 0 then .consistent
  else if s.tear = 1 then .forwardTear
  else if s.tear = -1 then .backwardTear
  else .beyond

/-- R142, R171: the tick value `C` of the read in progress; it is scaled at `MS_SCALE`. -/
def State.tickValue (s : State) : Option U32 :=
  match s.x, s.t with
  | some x, some t => some (combine x t)
  | _, _ => none

/-- R142's premises, from the last `IN_ZERO` to the read: a clean `init` (`OVF_z = 0`, `PEND_z = 0`, the values
when `IN_ZERO` takes its step in `z`), no later `IN_ZERO`, and `MS_OVF` from `s` to `t`. -/
structure ReadAfterCleanInit (z s t : State) (is : List Instr) : Prop where
  inv : StateInv z
  ovfZero : z.ovf = 0
  pendClear : z.pend = false
  run : execAll (.inZero :: is) z = .next s
  lastZero : Instr.inZero ∉ is
  read : exec .msOvf s = .next t

/-- R143, R144: some run from reset of the configuration, with a clean `init`, no overflow lost and fewer than 256
ticks between the two reads, makes a read begun with `SAVE` that has the outcome. -/
def ReachesRead (c : Config) (draw : U8) (saved : Bool) (outcome : ReadOutcome) : Prop :=
  ∃ boot z s t is, execAll boot (State.resetWith c draw) = .next z ∧ ReadAfterCleanInit z s t is ∧
    t.lost = 0 ∧ t.ticks < t.v2 + 256 ∧ t.save = some saved ∧ t.readOutcome = outcome

/-- R145: MC §3's consistency invariant, that no read pairs values of two overflow periods, under R143's premises.
R142: "A read is consistent, in MC §3's sense, exactly when `e = 0`." The algorithm does not meet it. -/
def ReadsAreConsistent (c : Config) : Prop :=
  ∀ z s t is, z.cfg = c → ReadAfterCleanInit z s t is → t.lost = 0 → t.ticks < t.v2 + 256 →
    t.readOutcome = .consistent

/-! ### Progress -/

/-- The foreground steps left until `IDLE`; none in `BOOT` and `IDLE`, where the host may stay (R285). -/
def Phase.stepsLeft : Phase → Nat
  | .boot | .idle => 0
  | .init2 => 3
  | .init3 => 2
  | .init4 => 1
  | .ms2 => 5
  | .ms3 => 4
  | .ms4 => 3
  | .ms5 => 2
  | .ms6 => 1

/-- R33: the rows of the phase table for `MICROS_ENABLED = true`: the operation enabled in a phase, and the
phase it leads to. -/
def phaseTable : List (Phase × Instr × Phase) :=
  [(.boot, .inDiv, .init2), (.boot, .envCli, .boot), (.boot, .envSei, .boot), (.boot, .msSave, .ms2),
   (.init2, .inOie, .init3), (.init3, .inZero, .init4), (.init4, .inSei, .idle),
   (.idle, .msSave, .ms2), (.idle, .envCli, .idle), (.idle, .envSei, .idle), (.idle, .inDiv, .init2),
   (.ms2, .msRaw, .ms3), (.ms3, .msCli, .ms4), (.ms4, .msOvf, .ms5), (.ms5, .msRestore, .ms6),
   (.ms6, .msScale, .idle)]

/-- R33, R86, R203, R204: the same for `MICROS_ENABLED = false`. -/
def phaseTableDisabled : List (Phase × Instr × Phase) :=
  [(.boot, .inSei, .idle), (.boot, .envCli, .boot), (.boot, .envSei, .boot),
   (.idle, .inSei, .idle), (.idle, .envCli, .idle), (.idle, .envSei, .idle)]

/-- R33: the phase table of a configuration. -/
def phaseRows (c : Config) : List (Phase × Instr × Phase) :=
  if c.microsEnabled then phaseTable else phaseTableDisabled

/-- R33, R285: the phase enables some foreground operation. -/
def State.phaseEnablesForeground (s : State) : Prop := ∃ i p, (s.phase, i, p) ∈ phaseRows s.cfg

/-- An infinite run with the weak fairness of R236 (a dispatch whose guard holds continuously is taken) and of
R285 (a foreground step that the phase goes on enabling, outside `BOOT` and `IDLE`, is taken). What a foreground
step needs to be enabled is its row of R33's phase table: that R236 puts a dispatch before it does not make it
disabled, so wraps and prompt dispatches cannot hold an activation back for ever (R140, R250;
notes/assumptions/20.md). -/
structure FairRun (st : Nat → State) (op : Nat → Instr) : Prop where
  steps : ∀ n, exec (op n) (st n) = .next (st (n + 1))
  irqFair : ∀ n, (∀ m, n ≤ m → enabled .ovfIrq (st m) = true) → ∃ m, n ≤ m ∧ op m = .ovfIrq
  fgFair : ∀ n, (∀ m, n ≤ m → (st m).phase.stepsLeft ≠ 0 ∧ (st m).phaseEnablesForeground) →
    ∃ m, n ≤ m ∧ (op m).agent = .fg

end Sys2Proof.Machine
end

