-- ==== Sys2Proof/Certificates/Slice0/Obligations.lean ====
section
/-!
DEFINITION. The statements about the CORE, from the numbered rules of spec/. A field name in a record update is
the state element of spec/10_state.md R20; everything the update does not name is unchanged, so each result
statement is its operation's frame as well.
-/

open Sys2Proof Sys2Proof.Machine

/-! ### Encoding (spec/30_encoding.md) -/

/-- R81, R83, R84: each code of the operation map selects its row, and `1110` and `1111` are reserved. -/
def Obligations.WordsDecodeAsTheOperationMap : Prop :=
  decodeWord 0b0000#4 = .ok .tick ∧ decodeWord 0b0001#4 = .ok .ovfIrq ∧
  decodeWord 0b0010#4 = .ok .msSave ∧ decodeWord 0b0011#4 = .ok .msRaw ∧
  decodeWord 0b0100#4 = .ok .msCli ∧ decodeWord 0b0101#4 = .ok .msOvf ∧
  decodeWord 0b0110#4 = .ok .msRestore ∧ decodeWord 0b0111#4 = .ok .msScale ∧
  decodeWord 0b1000#4 = .ok .inDiv ∧ decodeWord 0b1001#4 = .ok .inOie ∧
  decodeWord 0b1010#4 = .ok .inZero ∧ decodeWord 0b1011#4 = .ok .inSei ∧
  decodeWord 0b1100#4 = .ok .envCli ∧ decodeWord 0b1101#4 = .ok .envSei ∧
  decodeWord 0b1110#4 = .error (.reserved 0b1110#4) ∧ decodeWord 0b1111#4 = .error (.reserved 0b1111#4)

/-- R81: each operation has exactly one code. Decoding gives back what was encoded, from a word and from the
front of a list of bytes, and a word that decodes is the code of what it decodes to. -/
def Obligations.DecodeAndEncodeAgree : Prop :=
  (∀ i, decodeWord (encode i) = .ok i) ∧
  (∀ i rest, decode (encodeByte i :: rest) = .ok (i, rest)) ∧
  (∀ w i, decodeWord w = .ok i → encode i = w)

/-! ### Configuration and reset -/

/-- R9: a build is refused exactly when no row of its table has its `FREQ`, or the factor of the first row that
has it is not in 1..99; a build that is not refused gives the configuration it names. (The table as a list of rows
is the model's choice, notes/assumptions/18.md.) -/
def Obligations.IllFormedBuildsAreRefused : Prop :=
  ∀ b : BuildConfig,
    ((∀ k, (b.freqHz, k) ∉ b.table) → b.configure = .error (.unrecognizedFrequency b.freqHz)) ∧
    (∀ above k below, b.table = above ++ (b.freqHz, k) :: below → (∀ k', (b.freqHz, k') ∉ above) →
      (¬ (1 ≤ k ∧ k ≤ 99) → b.configure = .error (.factorOutOfRange k)) ∧
      (1 ≤ k ∧ k ≤ 99 → ∃ c, b.configure = .ok c ∧ configK c = k ∧ c.freqHz = b.freqHz ∧
        c.microsEnabled = b.microsEnabled ∧ c.promptDispatch = b.promptDispatch))

/-- R207: the divider of a frequency, at and around the threshold of 4.8 MHz. -/
def Obligations.DividerFollowsTheThreshold : Prop :=
  ∀ c : Config, (4800000 ≤ c.freqHz → configDiv c = .d64) ∧ (c.freqHz < 4800000 → configDiv c = .d8)

/-- R270: the state after reset, for every configuration and every draw of `TCNT`. -/
def Obligations.ResetLeavesTheResetState : Prop :=
  ∀ c draw,
    let s := State.resetWith c draw
    s.cfg = c ∧ s.ovf = 0 ∧ s.tcnt = draw ∧ s.pend = false ∧ s.oie = false ∧ s.ie = false ∧ s.div = .stop ∧
    s.save = none ∧ s.t = none ∧ s.x = none ∧ s.result = none ∧ s.initDone = false ∧ s.phase = .boot ∧
    s.faults.has .useBeforeInit = false ∧ s.faults.has .initTwice = false ∧ s.ticks = 0 ∧ s.lost = 0

/-- R272: after reset no interrupt is dispatched and the timer does not tick, whatever the configuration. -/
def Obligations.NothingRunsByItselfAfterReset : Prop :=
  ∀ c draw t, exec .tick (State.resetWith c draw) ≠ .next t ∧ exec .ovfIrq (State.resetWith c draw) ≠ .next t

/-! ### The step -/

/-- R83, R85: a word that is offered to its operation's agent runs that operation, on the state with the offer
taken from the queue. (The queue of offers is the model's own, notes/assumptions/4.md.) -/
def Obligations.StepRunsTheDecodedOperation : Prop :=
  ∀ (s : State) a w rest i, s.offers = .op a w :: rest → decodeWord w = .ok i → i.agent = a →
    step s = exec i { s with offers := rest }

/-- R84, R85, R67, R141: what is offered and spells no step is refused by name. -/
def Obligations.StepRefusesWhatSpellsNoStep : Prop :=
  ∀ (s : State) rest,
    (∀ a w, s.offers = .op a w :: rest → w = 0b1110#4 ∨ w = 0b1111#4 → step s = .refused (.reservedCode w)) ∧
    (∀ a w i, s.offers = .op a w :: rest → decodeWord w = .ok i → i.agent ≠ a →
      step s = .refused (.wrongAgent i a)) ∧
    (s.offers = .hostReadsOvf :: rest → step s = .refused .hostAccessToOvf) ∧
    (∀ v, s.offers = .hostWritesOvf v :: rest → step s = .refused .hostAccessToOvf) ∧
    (s.offers = .microsInHandler :: rest → step s = .refused .microsFromHandler)

/-- R13: where nothing is offered, an enabled step of some agent is taken, for every free choice there can be;
and the machine is stuck only where no agent has a step. -/
def Obligations.StepTakesAnEnabledOperation : Prop :=
  ∀ s : State, s.offers = [] →
    (∀ i, enabled i s = true → ∃ j t, enabled j s = true ∧ step s = exec j { s with turn := s.turn + 1 } ∧
      step s = .next t) ∧
    ((∀ i, enabled i s = false) → step s = .fault .noEnabledStep)

/-- R70: the steps of a queue of offered operations are the run of those operations in that order. -/
def Obligations.OfferedProgramRunsInOrder : Prop :=
  ∀ (is : List Instr) (s : State),
    (Host.Core.run core is.length { s with offers := is.map offerOf } : Result) =
      execAll is { s with offers := [] }

/-! ### `TICK` and `OVF_IRQ` (spec/40_overflow.md) -/

/-- R100, R101, R102: what a tick does, below 255 and at a wrap, with an overflow pending or not; and where it
has no step. -/
def Obligations.TickCountsAndWraps : Prop :=
  SpelledAs 0b0000#4 .tick .tmr ∧ ∀ s : State,
    (s.cfg.microsEnabled = true → s.div ≠ .stop →
      exec .tick s = .next
        (if s.tcnt ≠ 255#8 then { s with tcnt := s.tcnt + 1, ticks := s.ticks + 1 }
         else if s.pend = false then { s with tcnt := 0#8, ticks := s.ticks + 1, pend := true }
         else { s with tcnt := 0#8, ticks := s.ticks + 1, lost := s.lost + 1 })) ∧
    (s.cfg.microsEnabled = false ∨ s.div = .stop → ∀ t, exec .tick s ≠ .next t)

/-- R103 to R106: the handler, dispatched, adds 1 to `OVF` modulo 2^32, clears `PEND`, leaves `IE` set, and
writes nothing else; no byte of memory outside `OVF` changes. -/
def Obligations.HandlerCountsOneOverflow : Prop :=
  SpelledAs 0b0001#4 .ovfIrq .irq ∧ ∀ s : State,
    s.cfg.microsEnabled = true → s.ie = true → s.oie = true → s.pend = true →
    ∃ t, exec .ovfIrq s = .next t ∧ t.ovf = s.ovf + 1 ∧ t.pend = false ∧ t.ie = true ∧
      (∀ a, 4 ≤ a → Memory.readByte t.mem a = Memory.readByte s.mem a) ∧
      { t with mem := s.mem, pend := s.pend, ie := s.ie } = s

/-- R63: the handler stores the four bytes of `OVF` with `OVF[7:0]` in byte 0. -/
def Obligations.HandlerStoresLittleEndian : Prop :=
  ∀ s t i, exec .ovfIrq s = .next t → i < 4 →
    Memory.readByte t.mem i = (s.ovf + 1).extractLsb' (8 * i) 8

/-- R232: the overflow interrupt is dispatched exactly under its four conditions. -/
def Obligations.DispatchNeedsItsFourConditions : Prop :=
  ∀ s : State, (∃ t, exec .ovfIrq s = .next t) ↔
    s.cfg.microsEnabled = true ∧ s.ie = true ∧ s.oie = true ∧ s.pend = true

/-- R108: a tick inside the handler, before or after its body, leaves what a tick after the handler leaves. -/
def Obligations.TickInsideHandlerCommutes : Prop :=
  ∀ s t u, exec .ovfIrq s = .next t → exec .tick t = .next u →
    s.interruptEntry.tickOnce.handlerBody.interruptReturn = u ∧
    s.interruptEntry.handlerBody.tickOnce.interruptReturn = u

/-! ### The steps of `micros` (spec/41_micros_sync.md, spec/42_converter.md) -/

/-- R131, R241: `MS_SAVE`. R131's remark that `INIT_DONE = 1` always holds in `IDLE` is claimed of runs without a
model fault only: the program P7a of spec/95_test_vectors.md ends in `IDLE` with `INIT_DONE = 0`
(notes/assumptions/9.md). -/
def Obligations.MsSaveSavesTheInterruptEnable : Prop :=
  SpelledAs 0b0010#4 .msSave .fg ∧ ∀ s : State,
    (s.cfg.microsEnabled = true → s.phase = .idle ∨ s.phase = .boot → s.dispatchComesFirst = false →
      exec .msSave s = .next
        { s with save := some s.ie, phase := .ms2,
                 faults := if s.initDone then s.faults else { s.faults with useBeforeInit := true } }) ∧
    (s.phase ≠ .idle → s.phase ≠ .boot → ∀ t, exec .msSave s ≠ .next t) ∧
    (StateInv s → s.faultFree → s.phase = .idle → s.initDone = true)

/-- R132: `MS_RAW`, with the ghost `V2`. -/
def Obligations.MsRawReadsTheRawCounter : Prop :=
  SpelledAs 0b0011#4 .msRaw .fg ∧ ∀ s : State,
    (s.cfg.microsEnabled = true → s.phase = .ms2 → s.dispatchComesFirst = false →
      exec .msRaw s = .next { s with t := some s.tcnt, v2 := s.ticks, phase := .ms3 }) ∧
    (s.phase ≠ .ms2 → ∀ t, exec .msRaw s ≠ .next t)

/-- R133: `MS_CLI`. A pending overflow stays pending. -/
def Obligations.MsCliEntersTheCriticalSection : Prop :=
  SpelledAs 0b0100#4 .msCli .fg ∧ ∀ s : State,
    (s.cfg.microsEnabled = true → s.phase = .ms3 → s.dispatchComesFirst = false →
      exec .msCli s = .next { s with ie := false, phase := .ms4 }) ∧
    (s.phase ≠ .ms3 → ∀ t, exec .msCli s ≠ .next t)

/-- R134: `MS_OVF`, and `IE = 0` at it. -/
def Obligations.MsOvfReadsTheOverflowCounter : Prop :=
  SpelledAs 0b0101#4 .msOvf .fg ∧ ∀ s : State,
    (s.cfg.microsEnabled = true → s.phase = .ms4 → s.dispatchComesFirst = false →
      exec .msOvf s = .next { s with x := some s.ovf, phase := .ms5 }) ∧
    (s.phase ≠ .ms4 → ∀ t, exec .msOvf s ≠ .next t) ∧
    (StateInv s → s.phase = .ms4 → s.ie = false)

/-- R135: `MS_RESTORE`. -/
def Obligations.MsRestoreLeavesTheCriticalSection : Prop :=
  SpelledAs 0b0110#4 .msRestore .fg ∧ ∀ s : State,
    (∀ saved, s.cfg.microsEnabled = true → s.phase = .ms5 → s.dispatchComesFirst = false →
      s.save = some saved → exec .msRestore s = .next { s with ie := saved, save := none, phase := .ms6 }) ∧
    (s.phase ≠ .ms5 → ∀ t, exec .msRestore s ≠ .next t)

/-- R170: `MS_SCALE`; `T` and `X` hold values at it. -/
def Obligations.MsScaleReturnsTheTime : Prop :=
  SpelledAs 0b0111#4 .msScale .fg ∧ ∀ s : State,
    (∀ x raw, s.cfg.microsEnabled = true → s.phase = .ms6 → s.dispatchComesFirst = false →
      s.x = some x → s.t = some raw →
      exec .msScale s = .next
        { s with result := some (convert x raw (configK s.cfg)), t := none, x := none, phase := .idle }) ∧
    (s.phase ≠ .ms6 → ∀ t, exec .msScale s ≠ .next t) ∧
    (StateInv s → s.phase = .ms6 → s.x.isSome ∧ s.t.isSome)

/-- R171, R172: the converter, as numbers and bit by bit. Its last clause, the equality with unbounded arithmetic, is
R173, which the spec marks as its own inference. -/
def Obligations.ConverterArithmetic : Prop :=
  ∀ (x : U32) (raw : U8) (k : Nat),
    (combine x raw).toNat = (x.toNat * 2 ^ 8 % 2 ^ 32 + raw.toNat) % 2 ^ 32 ∧
    combine x raw = x.extractLsb' 0 24 ++ raw ∧
    (convert x raw k).toNat = (combine x raw).toNat * k % 2 ^ 32 ∧
    (convert x raw k).toNat = (x.toNat * 256 + raw.toNat) * k % 2 ^ 32

/-- R180: `RESULT` rises by `K` per tick, inside a period and across a consistent period boundary. -/
def Obligations.ResultRisesByKPerTick : Prop :=
  ∀ (x : U32) (raw : U8) (k : Nat),
    (raw.toNat < 255 → convert x (raw + 1) k = convert x raw k + BitVec.ofNat 32 k) ∧
    convert (x + 1) 0#8 k = convert x 255#8 k + BitVec.ofNat 32 k

/-- R179, which the spec marks as derived: where `RESULT` wraps first, for the four factors of the rule's table.
At a row's `X` and `T` the result has lost one 2^32 of the product, and at every smaller tick value it is the product
itself. -/
def Obligations.ResultWrapsFirstWhereTheTableSays : Prop :=
  ∀ k c x raw,
    (k, c, x, raw) ∈ [(4, 0x40000000, 0x400000#32, 0x00#8), (7, 0x24924925, 0x249249#32, 0x25#8),
      (13, 0x13B13B14, 0x13B13B#32, 0x14#8), (99, 0x0295FAD5, 0x0295FA#32, 0xD5#8)] →
    (combine x raw).toNat = c ∧ (convert x raw k).toNat + 2 ^ 32 = c * k ∧
    ∀ x' raw', (combine x' raw').toNat < c → (convert x' raw' k).toNat = (combine x' raw').toNat * k

/-! ### `init` and the host's critical section (spec/43_init_env.md) -/

/-- R200, R242: `IN_DIV`. -/
def Obligations.InDivSelectsTheDivider : Prop :=
  SpelledAs 0b1000#4 .inDiv .fg ∧ ∀ s : State,
    (s.cfg.microsEnabled = true → s.phase = .boot ∨ s.phase = .idle → s.dispatchComesFirst = false →
      exec .inDiv s = .next
        { s with div := configDiv s.cfg, phase := .init2,
                 faults := if s.initDone then { s.faults with initTwice := true } else s.faults }) ∧
    (s.cfg.microsEnabled = false ∨ (s.phase ≠ .boot ∧ s.phase ≠ .idle) → ∀ t, exec .inDiv s ≠ .next t)

/-- R201: `IN_OIE`. -/
def Obligations.InOieEnablesTheOverflowInterrupt : Prop :=
  SpelledAs 0b1001#4 .inOie .fg ∧ ∀ s : State,
    (s.cfg.microsEnabled = true → s.phase = .init2 → s.dispatchComesFirst = false →
      exec .inOie s = .next { s with oie := true, phase := .init3 }) ∧
    (s.phase ≠ .init2 → ∀ t, exec .inOie s ≠ .next t)

/-- R202: `IN_ZERO`. It clears neither `PEND` nor `OVF` (R209). -/
def Obligations.InZeroZeroesTheRawCounter : Prop :=
  SpelledAs 0b1010#4 .inZero .fg ∧ ∀ s : State,
    (s.cfg.microsEnabled = true → s.phase = .init3 → s.dispatchComesFirst = false →
      exec .inZero s = .next { s with tcnt := 0#8, ticks := 0, lost := 0, phase := .init4 }) ∧
    (s.phase ≠ .init3 → ∀ t, exec .inZero s ≠ .next t)

/-- R203: `IN_SEI`, in both configurations. -/
def Obligations.InSeiEnablesInterruptsLast : Prop :=
  SpelledAs 0b1011#4 .inSei .fg ∧ ∀ s : State,
    (s.cfg.microsEnabled = true → s.phase = .init4 → s.dispatchComesFirst = false →
      exec .inSei s = .next { s with ie := true, initDone := true, phase := .idle }) ∧
    (s.cfg.microsEnabled = false → s.phase = .boot ∨ s.phase = .idle →
      exec .inSei s = .next
        { s with ie := true, initDone := true, phase := .idle,
                 faults := if s.initDone then { s.faults with initTwice := true } else s.faults }) ∧
    (s.cfg.microsEnabled = true → s.phase ≠ .init4 → ∀ t, exec .inSei s ≠ .next t) ∧
    (s.cfg.microsEnabled = false → s.phase ≠ .boot → s.phase ≠ .idle → ∀ t, exec .inSei s ≠ .next t)

/-- R210: `ENV_CLI`. -/
def Obligations.EnvCliOpensACriticalSection : Prop :=
  SpelledAs 0b1100#4 .envCli .fg ∧ ∀ s : State,
    (s.phase = .boot ∨ s.phase = .idle → s.dispatchComesFirst = false →
      exec .envCli s = .next { s with ie := false }) ∧
    (s.phase ≠ .boot → s.phase ≠ .idle → ∀ t, exec .envCli s ≠ .next t)

/-- R211: `ENV_SEI`. -/
def Obligations.EnvSeiClosesACriticalSection : Prop :=
  SpelledAs 0b1101#4 .envSei .fg ∧ ∀ s : State,
    (s.phase = .boot ∨ s.phase = .idle → s.dispatchComesFirst = false →
      exec .envSei s = .next { s with ie := true }) ∧
    (s.phase ≠ .boot → s.phase ≠ .idle → ∀ t, exec .envSei s ≠ .next t)

/-- R205: a second `init` whose four steps no prompt dispatch comes between: what it writes, and that `OVF` and `PEND`
stay (the rule is marked as derived). -/
def Obligations.SecondInitKeepsTheOverflowCounter : Prop :=
  ∀ s : State, s.cfg.microsEnabled = true → s.phase = .idle → s.initDone = true →
    s.pend = false ∨ s.cfg.promptDispatch = false ∨ s.ie = false →
    execAll (Pseudo.init.expand true) s = .next
      { s with div := configDiv s.cfg, oie := true, tcnt := 0#8, ticks := 0, lost := 0, ie := true,
               faults := { s.faults with initTwice := true } }

/-- R276: a boot with no wrap before `IN_ZERO` is clean, and from then on `OVF` is the number of full periods
less the pending one, while no overflow is lost. -/
def Obligations.BootWithoutAWrapIsClean : Prop :=
  ∀ c draw is z, Instr.inZero ∉ is → wraps is (State.resetWith c draw) = 0 →
    execAll (is ++ [.inZero]) (State.resetWith c draw) = .next z →
    (z.ovf = 0 ∧ z.pend = false ∧ z.lost = 0) ∧
    ∀ js t, Instr.inZero ∉ js → execAll js z = .next t → t.lost = 0 →
      t.ovf = BitVec.ofInt 32 ((t.ticks / 256 : Nat) - (t.pend.toNat : Int))

/-- R208: a wrap between `IN_DIV` and `IN_ZERO` leaves an overflow pending that the zeroed counter never made;
the handler is dispatched for it after `IN_SEI`. -/
def Obligations.WrapInTheInitWindowIsCounted : Prop :=
  ∀ c : Config, c.microsEnabled = true →
    ∃ t u, execAll [.inDiv, .tick, .tick, .inOie, .inZero, .inSei] (State.resetWith c 0xFE#8) = .next t ∧
      t.ticks = 0 ∧ t.pend = true ∧ exec .ovfIrq t = .next u ∧ u.ovf = 1 ∧ u.ticks = 0

/-! ### Rules of the whole machine -/

/-- R33: the phase table. A foreground step is a row of it; every row is a step, unless R236 puts the dispatch
first; the other agents neither read nor write the phase. -/
def Obligations.ForegroundFollowsThePhaseTable : Prop :=
  (∀ i s t, i.agent = .fg → exec i s = .next t → (s.phase, i, t.phase) ∈ phaseRows s.cfg) ∧
  (∀ i s p, LocalsInv s → s.dispatchComesFirst = false → (s.phase, i, p) ∈ phaseRows s.cfg →
    ∃ t, exec i s = .next t ∧ t.phase = p) ∧
  (∀ i s p, i.agent ≠ .fg →
    exec i { s with phase := p } = mapNext (fun t => { t with phase := p }) (exec i s)) ∧
  (∀ i s t, i.agent ≠ .fg → exec i s = .next t → t.phase = s.phase)

/-- R86, R204: with `MICROS_ENABLED = false`, `init` is `IN_SEI` alone, and every operation but it and the two of the
host is refused. That the refusal has the name `microsDisabled`, and has it before any other reason, is the model's
choice (notes/assumptions/7.md and 14.md). -/
def Obligations.DisabledConfigurationRefusesMicros : Prop :=
  Pseudo.init.expand false = [.inSei] ∧
  ∀ i s, s.cfg.microsEnabled = false → i ≠ .inSei → i ≠ .envCli → i ≠ .envSei →
    exec i s = .refused .microsDisabled

/-- R236: with `PROMPT_DISPATCH = true` no foreground step is taken while the dispatch condition holds, and the
dispatch is there to be taken; with `false`, the condition holds no foreground step back. -/
def Obligations.PromptDispatchHoldsTheForegroundBack : Prop :=
  ∀ s : State, s.ie = true → s.oie = true → s.pend = true → s.cfg.microsEnabled = true →
    (s.cfg.promptDispatch = true →
      (∀ i t, i.agent = .fg → exec i s ≠ .next t) ∧ ∃ t, exec .ovfIrq s = .next t) ∧
    (s.cfg.promptDispatch = false → ∀ i p, LocalsInv s → (s.phase, i, p) ∈ phaseRows s.cfg →
      ∃ t, exec i s = .next t)

/-- R42, the writes of the access matrix, and R40: an operation changes only what its row has a `w` for. No
operation changes the configuration (R7), the queue of offers or the count of free choices. -/
def Obligations.OperationsWriteOnlyTheirRow : Prop :=
  ∀ i s t, exec i s = .next t →
    (i ≠ .ovfIrq → t.mem = s.mem ∧ t.ovf = s.ovf) ∧
    (i ∉ [.tick, .inZero] → t.tcnt = s.tcnt ∧ t.ticks = s.ticks ∧ t.lost = s.lost) ∧
    (i ∉ [.tick, .ovfIrq] → t.pend = s.pend) ∧
    (i ≠ .inOie → t.oie = s.oie) ∧
    (i ∉ [.ovfIrq, .msCli, .msRestore, .inSei, .envCli, .envSei] → t.ie = s.ie) ∧
    (i ≠ .inDiv → t.div = s.div) ∧
    (i ∉ [.msSave, .msRestore] → t.save = s.save) ∧
    (i ∉ [.msRaw, .msScale] → t.t = s.t) ∧
    (i ≠ .msRaw → t.v2 = s.v2) ∧
    (i ∉ [.msOvf, .msScale] → t.x = s.x) ∧
    (i ≠ .msScale → t.result = s.result) ∧
    (i ≠ .inSei → t.initDone = s.initDone) ∧
    (i ∈ [.tick, .ovfIrq, .envCli, .envSei] → t.phase = s.phase) ∧
    (i ∉ [.msSave, .inDiv, .inSei] → t.faults = s.faults) ∧
    t.cfg = s.cfg ∧ t.offers = s.offers ∧ t.turn = s.turn

/-- R7, R273: no step changes the configuration. -/
def Obligations.ConfigurationIsFixed : Prop :=
  ∀ s t, step s = .next t → t.cfg = s.cfg

/-- R39, R241, R242: which step raises which model fault, and that no step removes one. -/
def Obligations.ModelFaultsAreStickyAndRaisedByTheirSteps : Prop :=
  ∀ i s t, exec i s = .next t →
    t.faults.has .useBeforeInit = (s.faults.has .useBeforeInit || (decide (i = .msSave) && !s.initDone)) ∧
    t.faults.has .initTwice = (s.faults.has .initTwice ||
      (s.initDone && (decide (i = .inDiv) || (decide (i = .inSei) && !s.cfg.microsEnabled))))

/-- R238: a mask keeps the handler out and the overflow pending, no operation clears a pending overflow without
counting it, and once the mask lifts the overflow is counted by the dispatch that clears it. -/
def Obligations.OnlyDispatchClearsPending : Prop :=
  (∀ i s t, exec i s = .next t → s.pend = true →
    (t.pend = false → i = .ovfIrq ∧ t.ovf = s.ovf + 1) ∧
    (s.ie = false ∨ s.oie = false → t.pend = true ∧ t.ovf = s.ovf)) ∧
  (∀ s : State, s.cfg.microsEnabled = true → s.pend = true → s.ie = true → s.oie = true →
    ∃ t, exec .ovfIrq s = .next t ∧ t.pend = false ∧ t.ovf = s.ovf + 1)

/-- R14, R40: no step's guard or result reads a ghost. -/
def Obligations.GhostsAreNeverRead : Prop :=
  ∀ i s, mapNext State.eraseGhosts (exec i s.eraseGhosts) = mapNext State.eraseGhosts (exec i s)

/-- R230, R170: in the states of the invariant no operation stops with a fault. -/
def Obligations.InvariantRulesOutFaults : Prop :=
  ∀ i s f, StateInv s → exec i s ≠ .fault f

/-- The model's own choice (notes/assumptions/10.md): a local that holds `none` where R135 or R170 reads it stops
the machine. No run gets there (`InvariantRulesOutFaults`). -/
def Obligations.UnsetLocalsStopTheMachine : Prop :=
  ∀ s : State, s.cfg.microsEnabled = true → s.dispatchComesFirst = false →
    (s.phase = .ms5 → s.save = none → exec .msRestore s = .fault (.localUnset .save)) ∧
    (s.phase = .ms6 → s.x = none → exec .msScale s = .fault (.localUnset .x)) ∧
    (s.phase = .ms6 → s.x ≠ none → s.t = none → exec .msScale s = .fault (.localUnset .t))

/-- The invariant holds after reset, for every configuration and draw, and at `State.reset`. -/
def Obligations.InvariantHoldsAtReset : Prop :=
  StateInv State.reset ∧ ∀ c draw, StateInv (State.resetWith c draw)

/-- Every step keeps the invariant: memory stays canonical, the locals hold values in the phases that have them,
`IE` is 0 in the critical section (R134), boot goes as R200 to R203 say, and with `MICROS_ENABLED = false` what
R6 says does not exist keeps its reset value. -/
def Obligations.EveryStepKeepsTheInvariant : Prop :=
  ∀ s t, StateInv s → step s = .next t → StateInv t

/-- R250: in every state of the invariant, a step that is offered nothing takes a step. -/
def Obligations.CoreNeverDeadlocks : Prop :=
  ∀ s, StateInv s → s.offers = [] → ∃ t, step s = .next t

/-- R250, R36, R140: outside `BOOT` and `IDLE` exactly one foreground operation has a step, unless R236 puts the
dispatch first; it brings `IDLE` one step nearer, and no step of another agent changes the distance. -/
def Obligations.ForegroundStepsLeadToIdle : Prop :=
  ∀ s, StateInv s → s.phase.stepsLeft ≠ 0 →
    (s.dispatchComesFirst = false →
      ∃ i t, i.agent = .fg ∧ exec i s = .next t ∧ ∀ j u, j.agent = .fg → exec j s = .next u → j = i) ∧
    (∀ i t, i.agent = .fg → exec i s = .next t → t.phase.stepsLeft + 1 = s.phase.stepsLeft) ∧
    (∀ i t, i.agent ≠ .fg → exec i s = .next t → t.phase.stepsLeft = s.phase.stepsLeft)

/-- R140, R250, R285: under weak fairness of the foreground every `micros` and every `init` that has begun
finishes, whether or not dispatch is prompt. -/
def Obligations.FairRunsReturnToIdle : Prop :=
  ∀ (st : Nat → State) (op : Nat → Instr), FairRun st op → StateInv (st 0) →
    ∀ n, (st n).phase.stepsLeft ≠ 0 → ∃ m, n ≤ m ∧ (st m).phase = .idle

/-! ### The critical section (spec/41_micros_sync.md R136 to R139) -/

/-- R72, R138: from `MS_CLI` until `MS_RESTORE`, whatever else happens, the handler does not run: `IE` is 0 and
`OVF` does not change. -/
def Obligations.HandlerStaysOutOfTheCriticalSection : Prop :=
  ∀ s t is, Instr.msRestore ∉ is → execAll (.msCli :: is) s = .next t →
    Instr.ovfIrq ∉ is ∧ t.ie = false ∧ t.ovf = s.ovf

/-- R136: an activation, interleaved in any way, leaves `IE` as it was at `MS_SAVE`, both after `MS_RESTORE` and
at its end. -/
def Obligations.MicrosRestoresTheInterruptEnable : Prop :=
  ∀ s t is,
    (Instr.msRestore ∉ is → execAll (.msSave :: is ++ [.msRestore]) s = .next t → t.ie = s.ie) ∧
    (Instr.msScale ∉ is → execAll (.msSave :: is ++ [.msScale]) s = .next t → t.ie = s.ie)

/-- R130, R89: an activation that nothing interleaves returns the time and leaves the rest of the state as it
was, whatever `IE` is. -/
def Obligations.UndisturbedReadReturnsTheTime : Prop :=
  ∀ s : State, s.cfg.microsEnabled = true → s.phase = .idle ∨ s.phase = .boot → s.dispatchComesFirst = false →
    execAll (Pseudo.micros.expand true) s = .next
      { s with result := some (convert s.ovf s.tcnt (configK s.cfg)), phase := .idle, v2 := s.ticks,
               save := none, t := none, x := none,
               faults := if s.initDone then s.faults else { s.faults with useBeforeInit := true } }

/-! ### Counting overflows (spec/40_overflow.md R109, R110) -/

/-- R109: `N` wraps, each dispatched before the next, add exactly `N` to `OVF`, modulo 2^32. -/
def Obligations.DispatchedWrapsAreAllCounted : Prop :=
  ∀ n s t, CountedWraps n s t → s.pend = false → t.ovf = s.ovf + BitVec.ofNat 32 n ∧ t.pend = false

/-- R110: at every point after an `IN_ZERO`, `OVF` is what it was then, plus the full periods since, plus the
overflow pending then, less the one pending now and the lost ones; and `TCNT` is `ticks` modulo 256 (R142). -/
def Obligations.OverflowCounterFollowsTheTicks : Prop :=
  ∀ z s t is, exec .inZero z = .next s → Instr.inZero ∉ is → execAll is s = .next t →
    t.ovf = BitVec.ofInt 32
      ((z.ovf.toNat : Int) + (t.ticks / 256 : Nat) + z.pend.toNat - t.pend.toNat - t.lost) ∧
    t.tcnt.toNat = t.ticks % 256

/-! ### What a read returns (spec/41_micros_sync.md R142 to R147) -/

/-- R142: after a clean `init`, the tick value of a read is `V2` plus 256 times its tear, modulo 2^32. -/
def Obligations.ReadIsExactUpToItsTear : Prop :=
  ∀ z s t is, ReadAfterCleanInit z s t is →
    s.tcnt.toNat = s.ticks % 256 ∧ t.ticks = s.ticks ∧ t.pend = s.pend ∧ t.lost = s.lost ∧ t.v2 = s.v2 ∧
    t.tickValue = some (BitVec.ofInt 32 ((t.v2 : Int) + 256 * t.tear))

/-- R143: with no overflow lost and fewer than 256 ticks between the two reads, the four cases of the rule's
table, and no other. -/
def Obligations.ReadIsWithinOneOverflowPeriod : Prop :=
  ∀ z s t is, ReadAfterCleanInit z s t is → t.lost = 0 → t.ticks < t.v2 + 256 →
    (t.wrapsBetweenReads = 0 ∧ t.pend = false ∧ t.tickValue = some (BitVec.ofInt 32 t.v2)) ∨
    (t.wrapsBetweenReads = 1 ∧ t.pend = true ∧ t.tickValue = some (BitVec.ofInt 32 t.v2)) ∨
    (t.wrapsBetweenReads = 1 ∧ t.pend = false ∧ t.tickValue = some (BitVec.ofInt 32 ((t.v2 : Int) + 256))) ∨
    (t.wrapsBetweenReads = 0 ∧ t.pend = true ∧ t.tickValue = some (BitVec.ofInt 32 ((t.v2 : Int) - 256)))

/-- R144, `SAVE = 0`: a read inside a caller's critical section has no forward tear. -/
def Obligations.MaskedReadHasNoForwardTear : Prop :=
  ∀ z s t is, ReadAfterCleanInit z s t is → t.lost = 0 → t.ticks < t.v2 + 256 → t.save = some false →
    t.tear = -1 ∨ t.tear = 0

/-- R144, `SAVE = 1` and `PROMPT_DISPATCH = true`: the read has no backward tear. -/
def Obligations.PromptReadHasNoBackwardTear : Prop :=
  ∀ z s t is, ReadAfterCleanInit z s t is → t.lost = 0 → t.ticks < t.v2 + 256 → t.save = some true →
    t.cfg.promptDispatch = true → t.tear = 0 ∨ t.tear = 1

/-- R145, the forward tear is admitted: a wrap after `MS_RAW` that is dispatched before `MS_CLI` pairs the raw
value from before it with the count from after it. Every configuration with `MICROS_ENABLED` reaches it from reset,
so MC §3's invariant fails in each of them. -/
def Obligations.ForwardTearIsAdmitted : Prop :=
  (∀ s : State, s.cfg.microsEnabled = true → s.phase = .idle → s.div ≠ .stop → s.oie = true → s.ie = true →
    s.pend = false → s.tcnt = 255#8 →
    ∃ t, execAll [.msSave, .msRaw, .tick, .ovfIrq, .msCli, .msOvf, .msRestore, .msScale] s = .next t ∧
      t.result = some (convert (s.ovf + 1) 255#8 (configK s.cfg)) ∧ t.ovf = s.ovf + 1 ∧ t.tcnt = 0#8) ∧
  (∀ c draw, c.microsEnabled = true → ReachesRead c draw true .forwardTear) ∧
  (∀ c : Config, c.microsEnabled = true → ¬ ReadsAreConsistent c)

/-- R145, the backward tear is admitted: a wrap before `MS_RAW` that is not dispatched before `MS_CLI` pairs the
raw value from after it with the count from before it. Every configuration with `MICROS_ENABLED` reaches it from
reset inside a caller's critical section (`SAVE = 0`), and with dispatch not prompt outside one too (R144). -/
def Obligations.BackwardTearIsAdmitted : Prop :=
  (∀ s : State, s.cfg.microsEnabled = true → s.phase = .idle → s.div ≠ .stop → s.pend = false → s.tcnt = 255#8 →
    s.ie = false ∨ s.cfg.promptDispatch = false →
    ∃ t, execAll [.tick, .msSave, .msRaw, .msCli, .msOvf, .msRestore, .msScale] s = .next t ∧
      t.result = some (convert s.ovf 0#8 (configK s.cfg)) ∧ t.ovf = s.ovf ∧ t.pend = true) ∧
  (∀ c draw, c.microsEnabled = true → ReachesRead c draw false .backwardTear ∧
    (c.promptDispatch = false → ReachesRead c draw true .backwardTear))

/-- R146: a later read is at most 255 ticks below an earlier one, if the tick value does not wrap between them: the
dispatches between the reads do not take `OVF` past a multiple of 2^24, where `X << 8` drops a bit (R179). -/
def Obligations.LaterReadIsAtMost255TicksBelow : Prop :=
  ∀ a₀ a b₀ b is ca cb, exec .msOvf a₀ = .next a → execAll is a = .next b₀ → exec .msOvf b₀ = .next b →
    a.tickValue = some ca → b.tickValue = some cb → a.ovf.toNat % 2 ^ 24 + is.count .ovfIrq < 2 ^ 24 →
    ca.toNat ≤ cb.toNat + 255
end

