-- ==== Sys2Proof/Laws/State.lean ====
section
/-!
SUPPORT. One lemma per field per update of `State`, so that no proof unfolds a record update.
-/
namespace Sys2Proof.Machine

/-! ### `State.setIe` -/

@[simp] theorem State.setIe_cfg (s : State) (b : Bool) : (s.setIe b).cfg = s.cfg := rfl
@[simp] theorem State.setIe_mem (s : State) (b : Bool) : (s.setIe b).mem = s.mem := rfl
@[simp] theorem State.setIe_tcnt (s : State) (b : Bool) : (s.setIe b).tcnt = s.tcnt := rfl
@[simp] theorem State.setIe_pend (s : State) (b : Bool) : (s.setIe b).pend = s.pend := rfl
@[simp] theorem State.setIe_oie (s : State) (b : Bool) : (s.setIe b).oie = s.oie := rfl
@[simp] theorem State.setIe_ie (s : State) (b : Bool) : (s.setIe b).ie = b := rfl
@[simp] theorem State.setIe_div (s : State) (b : Bool) : (s.setIe b).div = s.div := rfl
@[simp] theorem State.setIe_save (s : State) (b : Bool) : (s.setIe b).save = s.save := rfl
@[simp] theorem State.setIe_t (s : State) (b : Bool) : (s.setIe b).t = s.t := rfl
@[simp] theorem State.setIe_x (s : State) (b : Bool) : (s.setIe b).x = s.x := rfl
@[simp] theorem State.setIe_result (s : State) (b : Bool) : (s.setIe b).result = s.result := rfl
@[simp] theorem State.setIe_initDone (s : State) (b : Bool) : (s.setIe b).initDone = s.initDone := rfl
@[simp] theorem State.setIe_phase (s : State) (b : Bool) : (s.setIe b).phase = s.phase := rfl
@[simp] theorem State.setIe_faults (s : State) (b : Bool) : (s.setIe b).faults = s.faults := rfl
@[simp] theorem State.setIe_ticks (s : State) (b : Bool) : (s.setIe b).ticks = s.ticks := rfl
@[simp] theorem State.setIe_lost (s : State) (b : Bool) : (s.setIe b).lost = s.lost := rfl
@[simp] theorem State.setIe_v2 (s : State) (b : Bool) : (s.setIe b).v2 = s.v2 := rfl
@[simp] theorem State.setIe_offers (s : State) (b : Bool) : (s.setIe b).offers = s.offers := rfl
@[simp] theorem State.setIe_turn (s : State) (b : Bool) : (s.setIe b).turn = s.turn := rfl

/-! ### `State.setOie` -/

@[simp] theorem State.setOie_cfg (s : State) : (s.setOie).cfg = s.cfg := rfl
@[simp] theorem State.setOie_mem (s : State) : (s.setOie).mem = s.mem := rfl
@[simp] theorem State.setOie_tcnt (s : State) : (s.setOie).tcnt = s.tcnt := rfl
@[simp] theorem State.setOie_pend (s : State) : (s.setOie).pend = s.pend := rfl
@[simp] theorem State.setOie_oie (s : State) : (s.setOie).oie = true := rfl
@[simp] theorem State.setOie_ie (s : State) : (s.setOie).ie = s.ie := rfl
@[simp] theorem State.setOie_div (s : State) : (s.setOie).div = s.div := rfl
@[simp] theorem State.setOie_save (s : State) : (s.setOie).save = s.save := rfl
@[simp] theorem State.setOie_t (s : State) : (s.setOie).t = s.t := rfl
@[simp] theorem State.setOie_x (s : State) : (s.setOie).x = s.x := rfl
@[simp] theorem State.setOie_result (s : State) : (s.setOie).result = s.result := rfl
@[simp] theorem State.setOie_initDone (s : State) : (s.setOie).initDone = s.initDone := rfl
@[simp] theorem State.setOie_phase (s : State) : (s.setOie).phase = s.phase := rfl
@[simp] theorem State.setOie_faults (s : State) : (s.setOie).faults = s.faults := rfl
@[simp] theorem State.setOie_ticks (s : State) : (s.setOie).ticks = s.ticks := rfl
@[simp] theorem State.setOie_lost (s : State) : (s.setOie).lost = s.lost := rfl
@[simp] theorem State.setOie_v2 (s : State) : (s.setOie).v2 = s.v2 := rfl
@[simp] theorem State.setOie_offers (s : State) : (s.setOie).offers = s.offers := rfl
@[simp] theorem State.setOie_turn (s : State) : (s.setOie).turn = s.turn := rfl

/-! ### `State.raise` -/

@[simp] theorem State.raise_cfg (s : State) (m : ModelFault) : (s.raise m).cfg = s.cfg := rfl
@[simp] theorem State.raise_mem (s : State) (m : ModelFault) : (s.raise m).mem = s.mem := rfl
@[simp] theorem State.raise_tcnt (s : State) (m : ModelFault) : (s.raise m).tcnt = s.tcnt := rfl
@[simp] theorem State.raise_pend (s : State) (m : ModelFault) : (s.raise m).pend = s.pend := rfl
@[simp] theorem State.raise_oie (s : State) (m : ModelFault) : (s.raise m).oie = s.oie := rfl
@[simp] theorem State.raise_ie (s : State) (m : ModelFault) : (s.raise m).ie = s.ie := rfl
@[simp] theorem State.raise_div (s : State) (m : ModelFault) : (s.raise m).div = s.div := rfl
@[simp] theorem State.raise_save (s : State) (m : ModelFault) : (s.raise m).save = s.save := rfl
@[simp] theorem State.raise_t (s : State) (m : ModelFault) : (s.raise m).t = s.t := rfl
@[simp] theorem State.raise_x (s : State) (m : ModelFault) : (s.raise m).x = s.x := rfl
@[simp] theorem State.raise_result (s : State) (m : ModelFault) : (s.raise m).result = s.result := rfl
@[simp] theorem State.raise_initDone (s : State) (m : ModelFault) : (s.raise m).initDone = s.initDone := rfl
@[simp] theorem State.raise_phase (s : State) (m : ModelFault) : (s.raise m).phase = s.phase := rfl
@[simp] theorem State.raise_faults (s : State) (m : ModelFault) : (s.raise m).faults = s.faults.add m := rfl
@[simp] theorem State.raise_ticks (s : State) (m : ModelFault) : (s.raise m).ticks = s.ticks := rfl
@[simp] theorem State.raise_lost (s : State) (m : ModelFault) : (s.raise m).lost = s.lost := rfl
@[simp] theorem State.raise_v2 (s : State) (m : ModelFault) : (s.raise m).v2 = s.v2 := rfl
@[simp] theorem State.raise_offers (s : State) (m : ModelFault) : (s.raise m).offers = s.offers := rfl
@[simp] theorem State.raise_turn (s : State) (m : ModelFault) : (s.raise m).turn = s.turn := rfl

/-! ### `State.setOvf` -/

@[simp] theorem State.setOvf_cfg (s : State) (v : U32) : (s.setOvf v).cfg = s.cfg := rfl
@[simp] theorem State.setOvf_mem (s : State) (v : U32) : (s.setOvf v).mem = Memory.writeOvf s.mem v := rfl
@[simp] theorem State.setOvf_tcnt (s : State) (v : U32) : (s.setOvf v).tcnt = s.tcnt := rfl
@[simp] theorem State.setOvf_pend (s : State) (v : U32) : (s.setOvf v).pend = s.pend := rfl
@[simp] theorem State.setOvf_oie (s : State) (v : U32) : (s.setOvf v).oie = s.oie := rfl
@[simp] theorem State.setOvf_ie (s : State) (v : U32) : (s.setOvf v).ie = s.ie := rfl
@[simp] theorem State.setOvf_div (s : State) (v : U32) : (s.setOvf v).div = s.div := rfl
@[simp] theorem State.setOvf_save (s : State) (v : U32) : (s.setOvf v).save = s.save := rfl
@[simp] theorem State.setOvf_t (s : State) (v : U32) : (s.setOvf v).t = s.t := rfl
@[simp] theorem State.setOvf_x (s : State) (v : U32) : (s.setOvf v).x = s.x := rfl
@[simp] theorem State.setOvf_result (s : State) (v : U32) : (s.setOvf v).result = s.result := rfl
@[simp] theorem State.setOvf_initDone (s : State) (v : U32) : (s.setOvf v).initDone = s.initDone := rfl
@[simp] theorem State.setOvf_phase (s : State) (v : U32) : (s.setOvf v).phase = s.phase := rfl
@[simp] theorem State.setOvf_faults (s : State) (v : U32) : (s.setOvf v).faults = s.faults := rfl
@[simp] theorem State.setOvf_ticks (s : State) (v : U32) : (s.setOvf v).ticks = s.ticks := rfl
@[simp] theorem State.setOvf_lost (s : State) (v : U32) : (s.setOvf v).lost = s.lost := rfl
@[simp] theorem State.setOvf_v2 (s : State) (v : U32) : (s.setOvf v).v2 = s.v2 := rfl
@[simp] theorem State.setOvf_offers (s : State) (v : U32) : (s.setOvf v).offers = s.offers := rfl
@[simp] theorem State.setOvf_turn (s : State) (v : U32) : (s.setOvf v).turn = s.turn := rfl

/-! ### `State.interruptEntry` -/

@[simp] theorem State.interruptEntry_cfg (s : State) : (s.interruptEntry).cfg = s.cfg := rfl
@[simp] theorem State.interruptEntry_mem (s : State) : (s.interruptEntry).mem = s.mem := rfl
@[simp] theorem State.interruptEntry_tcnt (s : State) : (s.interruptEntry).tcnt = s.tcnt := rfl
@[simp] theorem State.interruptEntry_pend (s : State) : (s.interruptEntry).pend = false := rfl
@[simp] theorem State.interruptEntry_oie (s : State) : (s.interruptEntry).oie = s.oie := rfl
@[simp] theorem State.interruptEntry_ie (s : State) : (s.interruptEntry).ie = false := rfl
@[simp] theorem State.interruptEntry_div (s : State) : (s.interruptEntry).div = s.div := rfl
@[simp] theorem State.interruptEntry_save (s : State) : (s.interruptEntry).save = s.save := rfl
@[simp] theorem State.interruptEntry_t (s : State) : (s.interruptEntry).t = s.t := rfl
@[simp] theorem State.interruptEntry_x (s : State) : (s.interruptEntry).x = s.x := rfl
@[simp] theorem State.interruptEntry_result (s : State) : (s.interruptEntry).result = s.result := rfl
@[simp] theorem State.interruptEntry_initDone (s : State) : (s.interruptEntry).initDone = s.initDone := rfl
@[simp] theorem State.interruptEntry_phase (s : State) : (s.interruptEntry).phase = s.phase := rfl
@[simp] theorem State.interruptEntry_faults (s : State) : (s.interruptEntry).faults = s.faults := rfl
@[simp] theorem State.interruptEntry_ticks (s : State) : (s.interruptEntry).ticks = s.ticks := rfl
@[simp] theorem State.interruptEntry_lost (s : State) : (s.interruptEntry).lost = s.lost := rfl
@[simp] theorem State.interruptEntry_v2 (s : State) : (s.interruptEntry).v2 = s.v2 := rfl
@[simp] theorem State.interruptEntry_offers (s : State) : (s.interruptEntry).offers = s.offers := rfl
@[simp] theorem State.interruptEntry_turn (s : State) : (s.interruptEntry).turn = s.turn := rfl

/-! ### `State.handlerBody` -/

@[simp] theorem State.handlerBody_cfg (s : State) : (s.handlerBody).cfg = s.cfg := rfl
@[simp] theorem State.handlerBody_mem (s : State) : (s.handlerBody).mem = Memory.writeOvf s.mem (s.ovf + 1) := rfl
@[simp] theorem State.handlerBody_tcnt (s : State) : (s.handlerBody).tcnt = s.tcnt := rfl
@[simp] theorem State.handlerBody_pend (s : State) : (s.handlerBody).pend = s.pend := rfl
@[simp] theorem State.handlerBody_oie (s : State) : (s.handlerBody).oie = s.oie := rfl
@[simp] theorem State.handlerBody_ie (s : State) : (s.handlerBody).ie = s.ie := rfl
@[simp] theorem State.handlerBody_div (s : State) : (s.handlerBody).div = s.div := rfl
@[simp] theorem State.handlerBody_save (s : State) : (s.handlerBody).save = s.save := rfl
@[simp] theorem State.handlerBody_t (s : State) : (s.handlerBody).t = s.t := rfl
@[simp] theorem State.handlerBody_x (s : State) : (s.handlerBody).x = s.x := rfl
@[simp] theorem State.handlerBody_result (s : State) : (s.handlerBody).result = s.result := rfl
@[simp] theorem State.handlerBody_initDone (s : State) : (s.handlerBody).initDone = s.initDone := rfl
@[simp] theorem State.handlerBody_phase (s : State) : (s.handlerBody).phase = s.phase := rfl
@[simp] theorem State.handlerBody_faults (s : State) : (s.handlerBody).faults = s.faults := rfl
@[simp] theorem State.handlerBody_ticks (s : State) : (s.handlerBody).ticks = s.ticks := rfl
@[simp] theorem State.handlerBody_lost (s : State) : (s.handlerBody).lost = s.lost := rfl
@[simp] theorem State.handlerBody_v2 (s : State) : (s.handlerBody).v2 = s.v2 := rfl
@[simp] theorem State.handlerBody_offers (s : State) : (s.handlerBody).offers = s.offers := rfl
@[simp] theorem State.handlerBody_turn (s : State) : (s.handlerBody).turn = s.turn := rfl

/-! ### `State.interruptReturn` -/

@[simp] theorem State.interruptReturn_cfg (s : State) : (s.interruptReturn).cfg = s.cfg := rfl
@[simp] theorem State.interruptReturn_mem (s : State) : (s.interruptReturn).mem = s.mem := rfl
@[simp] theorem State.interruptReturn_tcnt (s : State) : (s.interruptReturn).tcnt = s.tcnt := rfl
@[simp] theorem State.interruptReturn_pend (s : State) : (s.interruptReturn).pend = s.pend := rfl
@[simp] theorem State.interruptReturn_oie (s : State) : (s.interruptReturn).oie = s.oie := rfl
@[simp] theorem State.interruptReturn_ie (s : State) : (s.interruptReturn).ie = true := rfl
@[simp] theorem State.interruptReturn_div (s : State) : (s.interruptReturn).div = s.div := rfl
@[simp] theorem State.interruptReturn_save (s : State) : (s.interruptReturn).save = s.save := rfl
@[simp] theorem State.interruptReturn_t (s : State) : (s.interruptReturn).t = s.t := rfl
@[simp] theorem State.interruptReturn_x (s : State) : (s.interruptReturn).x = s.x := rfl
@[simp] theorem State.interruptReturn_result (s : State) : (s.interruptReturn).result = s.result := rfl
@[simp] theorem State.interruptReturn_initDone (s : State) : (s.interruptReturn).initDone = s.initDone := rfl
@[simp] theorem State.interruptReturn_phase (s : State) : (s.interruptReturn).phase = s.phase := rfl
@[simp] theorem State.interruptReturn_faults (s : State) : (s.interruptReturn).faults = s.faults := rfl
@[simp] theorem State.interruptReturn_ticks (s : State) : (s.interruptReturn).ticks = s.ticks := rfl
@[simp] theorem State.interruptReturn_lost (s : State) : (s.interruptReturn).lost = s.lost := rfl
@[simp] theorem State.interruptReturn_v2 (s : State) : (s.interruptReturn).v2 = s.v2 := rfl
@[simp] theorem State.interruptReturn_offers (s : State) : (s.interruptReturn).offers = s.offers := rfl
@[simp] theorem State.interruptReturn_turn (s : State) : (s.interruptReturn).turn = s.turn := rfl

/-! ### `State.goto` -/

@[simp] theorem State.goto_cfg (s : State) (p : Phase) : (s.goto p).cfg = s.cfg := rfl
@[simp] theorem State.goto_mem (s : State) (p : Phase) : (s.goto p).mem = s.mem := rfl
@[simp] theorem State.goto_tcnt (s : State) (p : Phase) : (s.goto p).tcnt = s.tcnt := rfl
@[simp] theorem State.goto_pend (s : State) (p : Phase) : (s.goto p).pend = s.pend := rfl
@[simp] theorem State.goto_oie (s : State) (p : Phase) : (s.goto p).oie = s.oie := rfl
@[simp] theorem State.goto_ie (s : State) (p : Phase) : (s.goto p).ie = s.ie := rfl
@[simp] theorem State.goto_div (s : State) (p : Phase) : (s.goto p).div = s.div := rfl
@[simp] theorem State.goto_save (s : State) (p : Phase) : (s.goto p).save = s.save := rfl
@[simp] theorem State.goto_t (s : State) (p : Phase) : (s.goto p).t = s.t := rfl
@[simp] theorem State.goto_x (s : State) (p : Phase) : (s.goto p).x = s.x := rfl
@[simp] theorem State.goto_result (s : State) (p : Phase) : (s.goto p).result = s.result := rfl
@[simp] theorem State.goto_initDone (s : State) (p : Phase) : (s.goto p).initDone = s.initDone := rfl
@[simp] theorem State.goto_phase (s : State) (p : Phase) : (s.goto p).phase = p := rfl
@[simp] theorem State.goto_faults (s : State) (p : Phase) : (s.goto p).faults = s.faults := rfl
@[simp] theorem State.goto_ticks (s : State) (p : Phase) : (s.goto p).ticks = s.ticks := rfl
@[simp] theorem State.goto_lost (s : State) (p : Phase) : (s.goto p).lost = s.lost := rfl
@[simp] theorem State.goto_v2 (s : State) (p : Phase) : (s.goto p).v2 = s.v2 := rfl
@[simp] theorem State.goto_offers (s : State) (p : Phase) : (s.goto p).offers = s.offers := rfl
@[simp] theorem State.goto_turn (s : State) (p : Phase) : (s.goto p).turn = s.turn := rfl

/-! ### `State.eraseGhosts` -/

@[simp] theorem State.eraseGhosts_cfg (s : State) : (s.eraseGhosts).cfg = s.cfg := rfl
@[simp] theorem State.eraseGhosts_mem (s : State) : (s.eraseGhosts).mem = s.mem := rfl
@[simp] theorem State.eraseGhosts_tcnt (s : State) : (s.eraseGhosts).tcnt = s.tcnt := rfl
@[simp] theorem State.eraseGhosts_pend (s : State) : (s.eraseGhosts).pend = s.pend := rfl
@[simp] theorem State.eraseGhosts_oie (s : State) : (s.eraseGhosts).oie = s.oie := rfl
@[simp] theorem State.eraseGhosts_ie (s : State) : (s.eraseGhosts).ie = s.ie := rfl
@[simp] theorem State.eraseGhosts_div (s : State) : (s.eraseGhosts).div = s.div := rfl
@[simp] theorem State.eraseGhosts_save (s : State) : (s.eraseGhosts).save = s.save := rfl
@[simp] theorem State.eraseGhosts_t (s : State) : (s.eraseGhosts).t = s.t := rfl
@[simp] theorem State.eraseGhosts_x (s : State) : (s.eraseGhosts).x = s.x := rfl
@[simp] theorem State.eraseGhosts_result (s : State) : (s.eraseGhosts).result = s.result := rfl
@[simp] theorem State.eraseGhosts_initDone (s : State) : (s.eraseGhosts).initDone = s.initDone := rfl
@[simp] theorem State.eraseGhosts_phase (s : State) : (s.eraseGhosts).phase = s.phase := rfl
@[simp] theorem State.eraseGhosts_faults (s : State) : (s.eraseGhosts).faults = s.faults := rfl
@[simp] theorem State.eraseGhosts_ticks (s : State) : (s.eraseGhosts).ticks = 0 := rfl
@[simp] theorem State.eraseGhosts_lost (s : State) : (s.eraseGhosts).lost = 0 := rfl
@[simp] theorem State.eraseGhosts_v2 (s : State) : (s.eraseGhosts).v2 = 0 := rfl
@[simp] theorem State.eraseGhosts_offers (s : State) : (s.eraseGhosts).offers = s.offers := rfl
@[simp] theorem State.eraseGhosts_turn (s : State) : (s.eraseGhosts).turn = s.turn := rfl

/-! ### The updates with a condition: what they leave, and what they write -/

@[simp] theorem State.raiseIf_cfg (s : State) (b : Bool) (m : ModelFault) : (s.raiseIf b m).cfg = s.cfg := by
  cases b <;> rfl
@[simp] theorem State.raiseIf_mem (s : State) (b : Bool) (m : ModelFault) : (s.raiseIf b m).mem = s.mem := by
  cases b <;> rfl
@[simp] theorem State.raiseIf_tcnt (s : State) (b : Bool) (m : ModelFault) : (s.raiseIf b m).tcnt = s.tcnt := by
  cases b <;> rfl
@[simp] theorem State.raiseIf_pend (s : State) (b : Bool) (m : ModelFault) : (s.raiseIf b m).pend = s.pend := by
  cases b <;> rfl
@[simp] theorem State.raiseIf_oie (s : State) (b : Bool) (m : ModelFault) : (s.raiseIf b m).oie = s.oie := by
  cases b <;> rfl
@[simp] theorem State.raiseIf_ie (s : State) (b : Bool) (m : ModelFault) : (s.raiseIf b m).ie = s.ie := by
  cases b <;> rfl
@[simp] theorem State.raiseIf_div (s : State) (b : Bool) (m : ModelFault) : (s.raiseIf b m).div = s.div := by
  cases b <;> rfl
@[simp] theorem State.raiseIf_save (s : State) (b : Bool) (m : ModelFault) : (s.raiseIf b m).save = s.save := by
  cases b <;> rfl
@[simp] theorem State.raiseIf_t (s : State) (b : Bool) (m : ModelFault) : (s.raiseIf b m).t = s.t := by
  cases b <;> rfl
@[simp] theorem State.raiseIf_x (s : State) (b : Bool) (m : ModelFault) : (s.raiseIf b m).x = s.x := by
  cases b <;> rfl
@[simp] theorem State.raiseIf_result (s : State) (b : Bool) (m : ModelFault) : (s.raiseIf b m).result = s.result := by
  cases b <;> rfl
@[simp] theorem State.raiseIf_initDone (s : State) (b : Bool) (m : ModelFault) : (s.raiseIf b m).initDone = s.initDone := by
  cases b <;> rfl
@[simp] theorem State.raiseIf_phase (s : State) (b : Bool) (m : ModelFault) : (s.raiseIf b m).phase = s.phase := by
  cases b <;> rfl
@[simp] theorem State.raiseIf_faults (s : State) (b : Bool) (m : ModelFault) :
    (s.raiseIf b m).faults = if b then s.faults.add m else s.faults := by
  cases b <;> rfl
@[simp] theorem State.raiseIf_ticks (s : State) (b : Bool) (m : ModelFault) : (s.raiseIf b m).ticks = s.ticks := by
  cases b <;> rfl
@[simp] theorem State.raiseIf_lost (s : State) (b : Bool) (m : ModelFault) : (s.raiseIf b m).lost = s.lost := by
  cases b <;> rfl
@[simp] theorem State.raiseIf_v2 (s : State) (b : Bool) (m : ModelFault) : (s.raiseIf b m).v2 = s.v2 := by
  cases b <;> rfl
@[simp] theorem State.raiseIf_offers (s : State) (b : Bool) (m : ModelFault) : (s.raiseIf b m).offers = s.offers := by
  cases b <;> rfl
@[simp] theorem State.raiseIf_turn (s : State) (b : Bool) (m : ModelFault) : (s.raiseIf b m).turn = s.turn := by
  cases b <;> rfl

@[simp] theorem State.wrap_cfg (s : State) : s.wrap.cfg = s.cfg := by
  unfold State.wrap; split <;> rfl
@[simp] theorem State.wrap_mem (s : State) : s.wrap.mem = s.mem := by
  unfold State.wrap; split <;> rfl
@[simp] theorem State.wrap_tcnt (s : State) : s.wrap.tcnt = s.tcnt := by
  unfold State.wrap; split <;> rfl
@[simp] theorem State.wrap_pend (s : State) : s.wrap.pend = true := by
  unfold State.wrap; split <;> simp_all
@[simp] theorem State.wrap_oie (s : State) : s.wrap.oie = s.oie := by
  unfold State.wrap; split <;> rfl
@[simp] theorem State.wrap_ie (s : State) : s.wrap.ie = s.ie := by
  unfold State.wrap; split <;> rfl
@[simp] theorem State.wrap_div (s : State) : s.wrap.div = s.div := by
  unfold State.wrap; split <;> rfl
@[simp] theorem State.wrap_save (s : State) : s.wrap.save = s.save := by
  unfold State.wrap; split <;> rfl
@[simp] theorem State.wrap_t (s : State) : s.wrap.t = s.t := by
  unfold State.wrap; split <;> rfl
@[simp] theorem State.wrap_x (s : State) : s.wrap.x = s.x := by
  unfold State.wrap; split <;> rfl
@[simp] theorem State.wrap_result (s : State) : s.wrap.result = s.result := by
  unfold State.wrap; split <;> rfl
@[simp] theorem State.wrap_initDone (s : State) : s.wrap.initDone = s.initDone := by
  unfold State.wrap; split <;> rfl
@[simp] theorem State.wrap_phase (s : State) : s.wrap.phase = s.phase := by
  unfold State.wrap; split <;> rfl
@[simp] theorem State.wrap_faults (s : State) : s.wrap.faults = s.faults := by
  unfold State.wrap; split <;> rfl
@[simp] theorem State.wrap_ticks (s : State) : s.wrap.ticks = s.ticks := by
  unfold State.wrap; split <;> rfl
@[simp] theorem State.wrap_lost (s : State) : s.wrap.lost = s.lost + s.pend.toNat := by
  unfold State.wrap; split <;> simp_all
@[simp] theorem State.wrap_v2 (s : State) : s.wrap.v2 = s.v2 := by
  unfold State.wrap; split <;> rfl
@[simp] theorem State.wrap_offers (s : State) : s.wrap.offers = s.offers := by
  unfold State.wrap; split <;> rfl
@[simp] theorem State.wrap_turn (s : State) : s.wrap.turn = s.turn := by
  unfold State.wrap; split <;> rfl

@[simp] theorem State.tickOnce_cfg (s : State) : s.tickOnce.cfg = s.cfg := by
  unfold State.tickOnce; split <;> simp_all
@[simp] theorem State.tickOnce_mem (s : State) : s.tickOnce.mem = s.mem := by
  unfold State.tickOnce; split <;> simp_all
@[simp] theorem State.tickOnce_tcnt (s : State) : s.tickOnce.tcnt = s.tcnt + 1 := by
  unfold State.tickOnce; split <;> simp_all
@[simp] theorem State.tickOnce_pend (s : State) : s.tickOnce.pend = (s.pend || decide (s.tcnt = 255#8)) := by
  unfold State.tickOnce; split <;> simp_all
@[simp] theorem State.tickOnce_oie (s : State) : s.tickOnce.oie = s.oie := by
  unfold State.tickOnce; split <;> simp_all
@[simp] theorem State.tickOnce_ie (s : State) : s.tickOnce.ie = s.ie := by
  unfold State.tickOnce; split <;> simp_all
@[simp] theorem State.tickOnce_div (s : State) : s.tickOnce.div = s.div := by
  unfold State.tickOnce; split <;> simp_all
@[simp] theorem State.tickOnce_save (s : State) : s.tickOnce.save = s.save := by
  unfold State.tickOnce; split <;> simp_all
@[simp] theorem State.tickOnce_t (s : State) : s.tickOnce.t = s.t := by
  unfold State.tickOnce; split <;> simp_all
@[simp] theorem State.tickOnce_x (s : State) : s.tickOnce.x = s.x := by
  unfold State.tickOnce; split <;> simp_all
@[simp] theorem State.tickOnce_result (s : State) : s.tickOnce.result = s.result := by
  unfold State.tickOnce; split <;> simp_all
@[simp] theorem State.tickOnce_initDone (s : State) : s.tickOnce.initDone = s.initDone := by
  unfold State.tickOnce; split <;> simp_all
@[simp] theorem State.tickOnce_phase (s : State) : s.tickOnce.phase = s.phase := by
  unfold State.tickOnce; split <;> simp_all
@[simp] theorem State.tickOnce_faults (s : State) : s.tickOnce.faults = s.faults := by
  unfold State.tickOnce; split <;> simp_all
@[simp] theorem State.tickOnce_ticks (s : State) : s.tickOnce.ticks = s.ticks + 1 := by
  unfold State.tickOnce; split <;> simp_all
@[simp] theorem State.tickOnce_lost (s : State) : s.tickOnce.lost = s.lost + (s.pend && decide (s.tcnt = 255#8)).toNat := by
  unfold State.tickOnce; split <;> simp_all
@[simp] theorem State.tickOnce_v2 (s : State) : s.tickOnce.v2 = s.v2 := by
  unfold State.tickOnce; split <;> simp_all
@[simp] theorem State.tickOnce_offers (s : State) : s.tickOnce.offers = s.offers := by
  unfold State.tickOnce; split <;> simp_all
@[simp] theorem State.tickOnce_turn (s : State) : s.tickOnce.turn = s.turn := by
  unfold State.tickOnce; split <;> simp_all

end Sys2Proof.Machine
end

