-- ==== Sys2Proof/Laws/Memory.lean ====
section
/-!
SUPPORT. The laws of the byte memory: read after write, that the canonical form is kept, and that `OVF` is read
as it was written.
-/
namespace Sys2Proof.Machine

@[simp] theorem Memory.readByte_nil (a : Nat) : Memory.readByte [] a = 0#8 := rfl

theorem Memory.readByte_insertByte_same (m : Memory) (a : Nat) (v : BitVec 8) :
    Memory.readByte (Memory.insertByte m a v) a = v := by
  fun_induction Memory.insertByte m a v <;> simp_all [Memory.readByte]
  omega

theorem Memory.readByte_insertByte_other (m : Memory) {a b : Nat} (v : BitVec 8) (h : a ≠ b) :
    Memory.readByte (Memory.insertByte m a v) b = Memory.readByte m b := by
  fun_induction Memory.insertByte m a v <;> simp_all [Memory.readByte, Memory.unlisted]

theorem Memory.readByte_eraseByte_same (m : Memory) (a : Nat) :
    Memory.readByte (Memory.eraseByte m a) a = Memory.unlisted := by
  fun_induction Memory.eraseByte m a <;> simp_all [Memory.readByte]

theorem Memory.readByte_eraseByte_other (m : Memory) {a b : Nat} (h : a ≠ b) :
    Memory.readByte (Memory.eraseByte m a) b = Memory.readByte m b := by
  fun_induction Memory.eraseByte m a <;> simp_all [Memory.readByte]

/-- A read after a write to the same byte, in every memory. -/
theorem Memory.readByte_writeByte_same (m : Memory) (a : Nat) (v : BitVec 8) :
    Memory.readByte (Memory.writeByte m a v) a = v := by
  unfold Memory.writeByte
  split
  · rename_i hv; rw [hv, Memory.readByte_eraseByte_same]
  · exact Memory.readByte_insertByte_same m a v

/-- A write leaves every other byte alone. -/
theorem Memory.readByte_writeByte_other (m : Memory) {a b : Nat} (v : BitVec 8) (h : a ≠ b) :
    Memory.readByte (Memory.writeByte m a v) b = Memory.readByte m b := by
  unfold Memory.writeByte
  split
  · exact Memory.readByte_eraseByte_other m h
  · exact Memory.readByte_insertByte_other m v h

/-! ### The canonical form -/

theorem Memory.wfFrom_cons {lo b : Nat} {w : BitVec 8} {m : Memory} :
    Memory.wfFrom lo ((b, w) :: m) = true ↔
      lo ≤ b ∧ b < Memory.size ∧ w ≠ Memory.unlisted ∧ Memory.wfFrom (b + 1) m = true := by
  simp [Memory.wfFrom, and_assoc]

theorem Memory.wfFrom_mono {m : Memory} {lo lo' : Nat} (h : Memory.wfFrom lo m = true) (hle : lo' ≤ lo) :
    Memory.wfFrom lo' m = true := by
  cases m with
  | nil => rfl
  | cons c m =>
    rw [Memory.wfFrom_cons] at h ⊢
    exact ⟨by omega, h.2⟩

theorem Memory.wfFrom_insertByte {m : Memory} {lo a : Nat} {v : BitVec 8} (h : Memory.wfFrom lo m = true)
    (hlo : lo ≤ a) (ha : a < Memory.size) (hv : v ≠ Memory.unlisted) :
    Memory.wfFrom lo (Memory.insertByte m a v) = true := by
  induction m generalizing lo with
  | nil => exact Memory.wfFrom_cons.2 ⟨hlo, ha, hv, rfl⟩
  | cons c m ih =>
    have hc := Memory.wfFrom_cons.1 h
    unfold Memory.insertByte
    split
    · exact Memory.wfFrom_cons.2 ⟨hlo, ha, hv, Memory.wfFrom_cons.2 ⟨by omega, hc.2⟩⟩
    · split
      · rename_i hab
        exact Memory.wfFrom_cons.2 ⟨hlo, ha, hv, hab ▸ hc.2.2.2⟩
      · exact Memory.wfFrom_cons.2 ⟨hc.1, hc.2.1, hc.2.2.1, ih hc.2.2.2 (by omega)⟩

theorem Memory.wfFrom_eraseByte {m : Memory} {lo : Nat} (a : Nat) (h : Memory.wfFrom lo m = true) :
    Memory.wfFrom lo (Memory.eraseByte m a) = true := by
  induction m generalizing lo with
  | nil => rfl
  | cons c m ih =>
    have hc := Memory.wfFrom_cons.1 h
    unfold Memory.eraseByte
    split
    · exact Memory.wfFrom_mono (ih hc.2.2.2) (by omega)
    · exact Memory.wfFrom_cons.2 ⟨hc.1, hc.2.1, hc.2.2.1, ih hc.2.2.2⟩

theorem Memory.wf_nil : Memory.wf [] = true := rfl

/-- Every write of a byte that exists keeps the canonical form. -/
theorem Memory.wf_writeByte {m : Memory} {a : Nat} (v : BitVec 8) (h : Memory.wf m = true)
    (ha : a < Memory.size) : Memory.wf (Memory.writeByte m a v) = true := by
  unfold Memory.writeByte
  split
  · exact Memory.wfFrom_eraseByte a h
  · rename_i hv; exact Memory.wfFrom_insertByte h (Nat.zero_le a) ha hv

/-- Every write of `OVF` keeps the canonical form. -/
theorem Memory.wf_writeOvf {m : Memory} (v : U32) (h : Memory.wf m = true) :
    Memory.wf (Memory.writeOvf m v) = true := by
  unfold Memory.writeOvf
  exact Memory.wf_writeByte _ (Memory.wf_writeByte _ (Memory.wf_writeByte _ (Memory.wf_writeByte _ h
    (by decide)) (by decide)) (by decide)) (by decide)

/-! ### `OVF` -/

/-- R63: byte `i` of the cell holds bits `8 i` to `8 i + 7`. -/
theorem Memory.readByte_writeOvf (m : Memory) (v : U32) {i : Nat} (hi : i < 4) :
    Memory.readByte (Memory.writeOvf m v) i = v.extractLsb' (8 * i) 8 := by
  unfold Memory.writeOvf
  match i, hi with
  | 0, _ =>
    rw [Memory.readByte_writeByte_other _ _ (by decide), Memory.readByte_writeByte_other _ _ (by decide),
      Memory.readByte_writeByte_other _ _ (by decide), Memory.readByte_writeByte_same]
  | 1, _ =>
    rw [Memory.readByte_writeByte_other _ _ (by decide), Memory.readByte_writeByte_other _ _ (by decide),
      Memory.readByte_writeByte_same]
  | 2, _ => rw [Memory.readByte_writeByte_other _ _ (by decide), Memory.readByte_writeByte_same]
  | 3, _ => exact Memory.readByte_writeByte_same _ _ _

/-- A write of `OVF` leaves every byte outside the cell alone. -/
theorem Memory.readByte_writeOvf_other (m : Memory) (v : U32) {a : Nat} (ha : 4 ≤ a) :
    Memory.readByte (Memory.writeOvf m v) a = Memory.readByte m a := by
  unfold Memory.writeOvf
  rw [Memory.readByte_writeByte_other _ _ (by omega), Memory.readByte_writeByte_other _ _ (by omega),
    Memory.readByte_writeByte_other _ _ (by omega), Memory.readByte_writeByte_other _ _ (by omega)]

theorem append_bytes (v : U32) :
    v.extractLsb' 24 8 ++ v.extractLsb' 16 8 ++ v.extractLsb' 8 8 ++ v.extractLsb' 0 8 = v := by
  apply BitVec.eq_of_getLsbD_eq
  intro i hi
  simp only [BitVec.getLsbD_append, BitVec.getLsbD_extractLsb']
  split
  · simp_all
  · split
    · rw [show 8 + (i - 8) = i by omega]; simp; omega
    · split
      · rw [show 16 + (i - 8 - 8) = i by omega]; simp; omega
      · rw [show 24 + (i - 8 - 8 - 8) = i by omega]; simp; omega

/-- R62: `OVF` is read as it was written, in every memory. -/
@[simp] theorem Memory.readOvf_writeOvf (m : Memory) (v : U32) :
    Memory.readOvf (Memory.writeOvf m v) = v := by
  unfold Memory.readOvf
  rw [Memory.readByte_writeOvf m v (i := 3) (by decide), Memory.readByte_writeOvf m v (i := 2) (by decide),
    Memory.readByte_writeOvf m v (i := 1) (by decide), Memory.readByte_writeOvf m v (i := 0) (by decide)]
  exact append_bytes v

@[simp] theorem Memory.readOvf_nil : Memory.readOvf [] = 0#32 := rfl

/-! ### `OVF` after each update of the state -/

theorem State.ovf_eq_of_mem_eq {s t : State} (h : t.mem = s.mem) : t.ovf = s.ovf := by
  unfold State.ovf; rw [h]

@[simp] theorem State.ovf_setOvf (s : State) (v : U32) : (s.setOvf v).ovf = v :=
  Memory.readOvf_writeOvf s.mem v

@[simp] theorem State.ovf_handlerBody (s : State) : s.handlerBody.ovf = s.ovf + 1 := State.ovf_setOvf s _

@[simp] theorem State.ovf_setIe (s : State) (b : Bool) : (s.setIe b).ovf = s.ovf := rfl
@[simp] theorem State.ovf_setOie (s : State) : s.setOie.ovf = s.ovf := rfl
@[simp] theorem State.ovf_interruptEntry (s : State) : s.interruptEntry.ovf = s.ovf := rfl
@[simp] theorem State.ovf_interruptReturn (s : State) : s.interruptReturn.ovf = s.ovf := rfl
@[simp] theorem State.ovf_goto (s : State) (p : Phase) : (s.goto p).ovf = s.ovf := rfl
@[simp] theorem State.ovf_eraseGhosts (s : State) : s.eraseGhosts.ovf = s.ovf := rfl
@[simp] theorem State.ovf_wrap (s : State) : s.wrap.ovf = s.ovf := State.ovf_eq_of_mem_eq (State.wrap_mem s)
@[simp] theorem State.ovf_tickOnce (s : State) : s.tickOnce.ovf = s.ovf :=
  State.ovf_eq_of_mem_eq (State.tickOnce_mem s)
@[simp] theorem State.ovf_raiseIf (s : State) (b : Bool) (m : ModelFault) : (s.raiseIf b m).ovf = s.ovf :=
  State.ovf_eq_of_mem_eq (State.raiseIf_mem s b m)

end Sys2Proof.Machine
end

