-- ==== Sys2Proof/Laws/Exec.lean ====
section
/-!
SUPPORT. What each shared operation and each meaning can do, said once: if it answers a next state, then its
guard held and the next state is this one. Proofs about steps cite these and unfold no meaning.
-/
namespace Sys2Proof.Machine

/-- R232. -/
theorem State.dispatchable_iff (s : State) :
    s.dispatchable = true ↔
      s.cfg.microsEnabled = true ∧ s.ie = true ∧ s.pend = true ∧ s.oie = true := by
  simp [State.dispatchable, State.irq, and_assoc]

/-- R236. -/
theorem State.dispatchComesFirst_iff (s : State) :
    s.dispatchComesFirst = true ↔ s.cfg.promptDispatch = true ∧ s.dispatchable = true := by
  simp [State.dispatchComesFirst]

/-- An overflow is held back by nothing when interrupts are off. -/
theorem State.dispatchComesFirst_of_ie {s : State} (h : s.ie = false) : s.dispatchComesFirst = false := by
  simp [State.dispatchComesFirst, State.dispatchable, h]

theorem State.dispatchComesFirst_of_pend {s : State} (h : s.pend = false) : s.dispatchComesFirst = false := by
  simp [State.dispatchComesFirst, State.dispatchable, State.irq, h]

theorem State.dispatchComesFirst_of_prompt {s : State} (h : s.cfg.promptDispatch = false) :
    s.dispatchComesFirst = false := by
  simp [State.dispatchComesFirst, h]

/-- The guard of a foreground step held, if the step was taken. -/
theorem fgStep_next {needsMicros : Bool} {phases : List Phase} {effect : State → Result} {s t : State}
    (h : fgStep needsMicros phases effect s = .next t) :
    (needsMicros = true → s.cfg.microsEnabled = true) ∧ s.phase ∈ phases ∧
      s.dispatchComesFirst = false ∧ effect s = .next t := by
  unfold fgStep at h
  split at h
  · cases h
  · split at h
    · cases h
    · split at h
      · cases h
      · simp_all

/-- A foreground step whose guard holds has its effect. -/
theorem fgStep_run {needsMicros : Bool} {phases : List Phase} (effect : State → Result) {s : State}
    (hm : needsMicros = true → s.cfg.microsEnabled = true) (hp : s.phase ∈ phases)
    (hd : s.dispatchComesFirst = false) : fgStep needsMicros phases effect s = effect s := by
  unfold fgStep
  cases needsMicros <;> simp_all

/-- A foreground step is a fault only where its effect is one, in a phase that enables it. -/
theorem fgStep_fault {needsMicros : Bool} {phases : List Phase} {effect : State → Result} {s : State}
    {f : Fault} (h : fgStep needsMicros phases effect s = .fault f) :
    s.phase ∈ phases ∧ effect s = .fault f := by
  unfold fgStep at h
  split at h
  · cases h
  · split at h
    · cases h
    · split at h
      · cases h
      · simp_all

theorem withLocal_next {α : Type} {l : Local} {v : Option α} {k : α → Result} {t : State}
    (h : withLocal l v k = .next t) : ∃ a, v = some a ∧ k a = .next t := by
  cases v with
  | none => cases h
  | some a => exact ⟨a, rfl, h⟩

theorem withLocal_fault {α : Type} {l : Local} {v : Option α} {k : α → Result} {f : Fault}
    (h : withLocal l v k = .fault f) : v = none ∨ ∃ a, v = some a ∧ k a = .fault f := by
  cases v with
  | none => exact .inl rfl
  | some a => exact .inr ⟨a, rfl, h⟩

@[simp] theorem withLocal_some {α : Type} (l : Local) (a : α) (k : α → Result) :
    withLocal l (some a) k = k a := rfl

/-! ### One inversion lemma per operation -/

theorem execTick_next {s t : State} (h : exec .tick s = .next t) :
    s.cfg.microsEnabled = true ∧ s.div ≠ .stop ∧ t = s.tickOnce := by
  simp only [exec, execTick] at h
  split at h
  · cases h
  · split at h
    · cases h
    · cases h; simp_all

theorem execOvfIrq_next {s t : State} (h : exec .ovfIrq s = .next t) :
    s.dispatchable = true ∧ t = s.interruptEntry.handlerBody.interruptReturn := by
  simp only [exec, execOvfIrq] at h
  split at h
  · cases h
  · split at h
    · cases h
    · cases h; simp_all

theorem execMsSave_next {s t : State} (h : exec .msSave s = .next t) :
    s.cfg.microsEnabled = true ∧ (s.phase = .idle ∨ s.phase = .boot) ∧ s.dispatchComesFirst = false ∧
      t = (({ s with save := some s.ie } : State).raiseIf (!s.initDone) .useBeforeInit).goto .ms2 := by
  simp only [exec, execMsSave] at h
  split at h
  · cases h
  · obtain ⟨hm, hp, hd, he⟩ := fgStep_next h
    cases he
    exact ⟨hm rfl, by simpa using hp, hd, rfl⟩

theorem execMsRaw_next {s t : State} (h : exec .msRaw s = .next t) :
    s.cfg.microsEnabled = true ∧ s.phase = .ms2 ∧ s.dispatchComesFirst = false ∧
      t = ({ s with t := some s.tcnt, v2 := s.ticks } : State).goto .ms3 := by
  unfold exec execMsRaw at h
  obtain ⟨hm, hp, hd, he⟩ := fgStep_next h
  cases he
  exact ⟨hm rfl, by simpa using hp, hd, rfl⟩

theorem execMsCli_next {s t : State} (h : exec .msCli s = .next t) :
    s.cfg.microsEnabled = true ∧ s.phase = .ms3 ∧ s.dispatchComesFirst = false ∧
      t = (s.setIe false).goto .ms4 := by
  unfold exec execMsCli at h
  obtain ⟨hm, hp, hd, he⟩ := fgStep_next h
  cases he
  exact ⟨hm rfl, by simpa using hp, hd, rfl⟩

theorem execMsOvf_next {s t : State} (h : exec .msOvf s = .next t) :
    s.cfg.microsEnabled = true ∧ s.phase = .ms4 ∧ s.dispatchComesFirst = false ∧
      t = ({ s with x := some s.ovf } : State).goto .ms5 := by
  unfold exec execMsOvf at h
  obtain ⟨hm, hp, hd, he⟩ := fgStep_next h
  cases he
  exact ⟨hm rfl, by simpa using hp, hd, rfl⟩

theorem execMsRestore_next {s t : State} (h : exec .msRestore s = .next t) :
    s.cfg.microsEnabled = true ∧ s.phase = .ms5 ∧ s.dispatchComesFirst = false ∧
      ∃ b, s.save = some b ∧ t = ({ s.setIe b with save := none } : State).goto .ms6 := by
  unfold exec execMsRestore at h
  obtain ⟨hm, hp, hd, he⟩ := fgStep_next h
  obtain ⟨b, hb, he⟩ := withLocal_next he
  cases he
  exact ⟨hm rfl, by simpa using hp, hd, b, hb, rfl⟩

theorem execMsScale_next {s t : State} (h : exec .msScale s = .next t) :
    s.cfg.microsEnabled = true ∧ s.phase = .ms6 ∧ s.dispatchComesFirst = false ∧
      ∃ x raw, s.x = some x ∧ s.t = some raw ∧
        t = ({ s with result := some (convert x raw (configK s.cfg)), t := none, x := none } : State).goto
          .idle := by
  unfold exec execMsScale at h
  obtain ⟨hm, hp, hd, he⟩ := fgStep_next h
  obtain ⟨x, hx, he⟩ := withLocal_next he
  obtain ⟨raw, hr, he⟩ := withLocal_next he
  cases he
  exact ⟨hm rfl, by simpa using hp, hd, x, raw, hx, hr, rfl⟩

theorem execInDiv_next {s t : State} (h : exec .inDiv s = .next t) :
    s.cfg.microsEnabled = true ∧ (s.phase = .boot ∨ s.phase = .idle) ∧ s.dispatchComesFirst = false ∧
      t = (({ s with div := configDiv s.cfg } : State).raiseIf s.initDone .initTwice).goto .init2 := by
  unfold exec execInDiv at h
  obtain ⟨hm, hp, hd, he⟩ := fgStep_next h
  cases he
  exact ⟨hm rfl, by simpa using hp, hd, rfl⟩

theorem execInOie_next {s t : State} (h : exec .inOie s = .next t) :
    s.cfg.microsEnabled = true ∧ s.phase = .init2 ∧ s.dispatchComesFirst = false ∧
      t = s.setOie.goto .init3 := by
  unfold exec execInOie at h
  obtain ⟨hm, hp, hd, he⟩ := fgStep_next h
  cases he
  exact ⟨hm rfl, by simpa using hp, hd, rfl⟩

theorem execInZero_next {s t : State} (h : exec .inZero s = .next t) :
    s.cfg.microsEnabled = true ∧ s.phase = .init3 ∧ s.dispatchComesFirst = false ∧
      t = ({ s with tcnt := 0#8, ticks := 0, lost := 0 } : State).goto .init4 := by
  unfold exec execInZero at h
  obtain ⟨hm, hp, hd, he⟩ := fgStep_next h
  cases he
  exact ⟨hm rfl, by simpa using hp, hd, rfl⟩

theorem execInSei_next {s t : State} (h : exec .inSei s = .next t) :
    s.phase ∈ inSeiPhases s.cfg.microsEnabled ∧ s.dispatchComesFirst = false ∧
      t = (({ s.setIe true with initDone := true } : State).raiseIf
        (!s.cfg.microsEnabled && s.initDone) .initTwice).goto .idle := by
  unfold exec execInSei at h
  obtain ⟨_, hp, hd, he⟩ := fgStep_next h
  cases he
  exact ⟨hp, hd, rfl⟩

theorem execEnvCli_next {s t : State} (h : exec .envCli s = .next t) :
    (s.phase = .boot ∨ s.phase = .idle) ∧ s.dispatchComesFirst = false ∧ t = s.setIe false := by
  unfold exec execEnvCli at h
  obtain ⟨_, hp, hd, he⟩ := fgStep_next h
  cases he
  exact ⟨by simpa using hp, hd, rfl⟩

theorem execEnvSei_next {s t : State} (h : exec .envSei s = .next t) :
    (s.phase = .boot ∨ s.phase = .idle) ∧ s.dispatchComesFirst = false ∧ t = s.setIe true := by
  unfold exec execEnvSei at h
  obtain ⟨_, hp, hd, he⟩ := fgStep_next h
  cases he
  exact ⟨by simpa using hp, hd, rfl⟩

/-! ### Runs -/

@[simp] theorem execAll_nil (s : State) : execAll [] s = .next s := rfl

theorem execAll_cons_next {i : Instr} {is : List Instr} {s t : State}
    (h : execAll (i :: is) s = .next t) : ∃ u, exec i s = .next u ∧ execAll is u = .next t := by
  simp only [execAll] at h
  split at h
  · rename_i u hu; exact ⟨u, hu, h⟩
  · cases h
  · cases h

theorem execAll_cons_of_next {i : Instr} {s u : State} (is : List Instr) (h : exec i s = .next u) :
    execAll (i :: is) s = execAll is u := by
  simp only [execAll, h]

theorem execAll_append_next {is js : List Instr} {s t : State}
    (h : execAll (is ++ js) s = .next t) : ∃ u, execAll is s = .next u ∧ execAll js u = .next t := by
  induction is generalizing s with
  | nil => exact ⟨s, rfl, h⟩
  | cons i is ih =>
    obtain ⟨u, hu, h⟩ := execAll_cons_next h
    obtain ⟨v, hv, h⟩ := ih h
    exact ⟨v, by rw [execAll_cons_of_next is hu]; exact hv, h⟩

theorem execAll_append_of_next {is : List Instr} {s u : State} (js : List Instr) (h : execAll is s = .next u) :
    execAll (is ++ js) s = execAll js u := by
  induction is generalizing s with
  | nil => cases h; rfl
  | cons i is ih =>
    obtain ⟨v, hv, h⟩ := execAll_cons_next h
    exact (execAll_cons_of_next (is ++ js) hv).trans (ih h)

/-- R100: a run of ticks with no wrap in it. -/
theorem execAll_ticks {s : State} (hm : s.cfg.microsEnabled = true) (hd : s.div ≠ .stop) (n : Nat)
    (hn : s.tcnt.toNat + n < 256) :
    execAll (List.replicate n .tick) s =
      .next { s with tcnt := s.tcnt + BitVec.ofNat 8 n, ticks := s.ticks + n } := by
  induction n generalizing s with
  | zero => simp
  | succ n ih =>
    have hne : s.tcnt ≠ 255#8 := fun h => by rw [h] at hn; simp at hn; omega
    have tick : exec .tick s = .next { s with tcnt := s.tcnt + 1, ticks := s.ticks + 1 } := by
      simp [exec, execTick, State.tickOnce, hm, hd, hne]
    have hlt : (s.tcnt + 1).toNat + n < 256 := by simp [BitVec.toNat_add]; omega
    rw [List.replicate_succ, execAll_cons_of_next _ tick,
      ih (s := { s with tcnt := s.tcnt + 1, ticks := s.ticks + 1 }) hm hd hlt]
    simp [BitVec.add_assoc, Nat.add_assoc, Nat.add_comm 1 n, BitVec.ofNat_add, BitVec.add_comm (1#8)]

/-- What every enabled operation keeps, a run keeps. -/
theorem execAll_keeps {P : State → Prop} {is : List Instr}
    (hstep : ∀ i ∈ is, ∀ s t, P s → exec i s = .next t → P t) {s t : State} (hs : P s)
    (h : execAll is s = .next t) : P t := by
  induction is generalizing s with
  | nil => cases h; exact hs
  | cons i is ih =>
    obtain ⟨u, hu, h⟩ := execAll_cons_next h
    exact ih (fun j hj => hstep j (List.mem_cons_of_mem i hj)) (hstep i (List.mem_cons_self ..) s u hs hu) h

/-! ### The outcome of a read (R143) -/

theorem State.readOutcome_consistent_iff (s : State) : s.readOutcome = .consistent ↔ s.tear = 0 := by
  unfold State.readOutcome; (repeat' split) <;> simp_all

theorem State.readOutcome_forwardTear_iff (s : State) : s.readOutcome = .forwardTear ↔ s.tear = 1 := by
  unfold State.readOutcome; (repeat' split) <;> simp_all

theorem State.readOutcome_backwardTear_iff (s : State) : s.readOutcome = .backwardTear ↔ s.tear = -1 := by
  unfold State.readOutcome; (repeat' split) <;> simp_all

/-! ### Which step comes next -/

theorem enabled_iff (i : Instr) (s : State) : enabled i s = true ↔ ∃ t, exec i s = .next t := by
  unfold enabled
  cases exec i s <;> simp

theorem Instr.mem_all (i : Instr) : i ∈ Instr.all := by cases i <;> decide

theorem mem_enabledOps (i : Instr) (s : State) : i ∈ enabledOps s ↔ enabled i s = true := by
  simp [enabledOps, Instr.mem_all]

theorem runOffer_offerOf (i : Instr) (s : State) : runOffer (offerOf i) s = exec i s := by
  cases i <;> rfl

/-- The free choice is an enabled operation, wherever there is one. -/
theorem drawOffer_cases (s : State) :
    (∃ i, enabled i s = true ∧ drawOffer s = some (offerOf i)) ∨
      (enabledOps s = [] ∧ drawOffer s = none) := by
  unfold drawOffer
  cases h : enabledOps s with
  | nil => exact .inr ⟨rfl, rfl⟩
  | cons j js =>
    have hlt : Config.draw s.turn % (j :: js).length < (j :: js).length := Nat.mod_lt _ (by simp)
    refine .inl ⟨(j :: js)[Config.draw s.turn % (j :: js).length], ?_, ?_⟩
    · rw [← mem_enabledOps, h]; exact List.getElem_mem hlt
    · simp only [List.getElem?_eq_getElem hlt, Option.map_some]

/-- What a step can do: it runs one operation, on the state with the offer taken in. -/
theorem step_next {s t : State} (h : step s = .next t) :
    ∃ i offers turn, exec i { s with offers := offers, turn := turn } = .next t := by
  simp only [step, stepOnce] at h
  split at h
  · rename_i o s' hn
    have hs' : ∃ offers turn, s' = { s with offers := offers, turn := turn } := by
      unfold nextOffer at hn
      split at hn
      · rename_i rest _; cases hn; exact ⟨rest, s.turn, rfl⟩
      · obtain ⟨o', _, he⟩ := Option.map_eq_some_iff.1 hn
        cases he; exact ⟨s.offers, s.turn + 1, rfl⟩
    obtain ⟨offers, turn, rfl⟩ := hs'
    unfold runOffer at h
    split at h
    · split at h
      · split at h
        · exact ⟨_, offers, turn, h⟩
        · cases h
      · cases h
    · cases h
    · cases h
    · cases h
  · cases h

/-- What every operation keeps, and the model's own bookkeeping too, a step keeps. -/
theorem step_keeps {P : State → Prop} (hexec : ∀ i s t, P s → exec i s = .next t → P t)
    (hown : ∀ s offers turn, P s → P { s with offers := offers, turn := turn }) {s t : State} (hs : P s)
    (h : step s = .next t) : P t := by
  obtain ⟨i, offers, turn, hi⟩ := step_next h
  exact hexec i _ t (hown s offers turn hs) hi

/-! ### What a meaning does not read -/

/-- A foreground step does not tell two states apart that agree on its guard, if its effect does not. -/
theorem fgStep_mapNext (f g : State → State) {needsMicros : Bool} {phases : List Phase}
    {effect : State → Result} (s : State) (hcfg : (g s).cfg = s.cfg) (hphase : (g s).phase = s.phase)
    (hfirst : (g s).dispatchComesFirst = s.dispatchComesFirst)
    (heffect : mapNext f (effect (g s)) = mapNext f (effect s)) :
    mapNext f (fgStep needsMicros phases effect (g s)) = mapNext f (fgStep needsMicros phases effect s) := by
  unfold fgStep
  rw [hcfg, hphase, hfirst]
  split
  · rfl
  · split
    · rfl
    · split
      · rfl
      · exact heffect

end Sys2Proof.Machine
end

