-- ==== Sys2Proof/Laws/PerInstr.lean ====
section
/-!
SUPPORT. Statements made per operation. `AgentBinding`: each operation is bound to the agent that
spec/30_encoding.md R85 gives its code.
-/
namespace Sys2Proof.Laws.AgentBinding

/-- R85: code `0000` is a step of `TMR` only, `0001` of `IRQ` only, `0010` to `1101` of `FG` only. -/
def Statement (i : Sys2Proof.Instr) : Prop :=
  i.wf = true ∧ OpWord.defined (encode i) = true ∧
    i.agent = if (encode i).toNat = 0 then .tmr else if (encode i).toNat = 1 then .irq else .fg

theorem tick : Statement .tick := by unfold Statement; decide
theorem ovfIrq : Statement .ovfIrq := by unfold Statement; decide
theorem msSave : Statement .msSave := by unfold Statement; decide
theorem msRaw : Statement .msRaw := by unfold Statement; decide
theorem msCli : Statement .msCli := by unfold Statement; decide
theorem msOvf : Statement .msOvf := by unfold Statement; decide
theorem msRestore : Statement .msRestore := by unfold Statement; decide
theorem msScale : Statement .msScale := by unfold Statement; decide
theorem inDiv : Statement .inDiv := by unfold Statement; decide
theorem inOie : Statement .inOie := by unfold Statement; decide
theorem inZero : Statement .inZero := by unfold Statement; decide
theorem inSei : Statement .inSei := by unfold Statement; decide
theorem envCli : Statement .envCli := by unfold Statement; decide
theorem envSei : Statement .envSei := by unfold Statement; decide

end Sys2Proof.Laws.AgentBinding
end

