-- ==== Sys2Proof/Tests/Slice0.lean ====
section
/-!
SUPPORT. Tests: the codes of spec/30_encoding.md R81 written out, ill-formed configurations and words, one-step
vectors of spec/95_test_vectors.md (each test names its row), and a witness for the hypotheses of every
statement.
-/
namespace Sys2Proof.Tests

open Sys2Proof Sys2Proof.Machine

/-! ### Words (R81) and ill-formed terms (R84, R9) -/

/-- The operation a word spells, if any. -/
def spelled (w : OpWord) : Option Instr := (decodeWord w).toOption

theorem test_decode_overflow_unit : spelled 0b0000#4 = some .tick ∧ spelled 0b0001#4 = some .ovfIrq := by
  decide
theorem test_decode_micros_1 :
    spelled 0b0010#4 = some .msSave ∧ spelled 0b0011#4 = some .msRaw ∧ spelled 0b0100#4 = some .msCli := by
  decide
theorem test_decode_micros_2 :
    spelled 0b0101#4 = some .msOvf ∧ spelled 0b0110#4 = some .msRestore ∧ spelled 0b0111#4 = some .msScale := by
  decide
theorem test_decode_init :
    spelled 0b1000#4 = some .inDiv ∧ spelled 0b1001#4 = some .inOie ∧ spelled 0b1010#4 = some .inZero ∧
      spelled 0b1011#4 = some .inSei := by
  decide
theorem test_decode_host : spelled 0b1100#4 = some .envCli ∧ spelled 0b1101#4 = some .envSei := by decide
theorem test_decode_reserved : spelled 0b1110#4 = none ∧ spelled 0b1111#4 = none := by decide

theorem test_defined_words : OpWord.defined 0b1101#4 = true ∧ OpWord.defined 0b1110#4 = false := by decide
theorem test_bytes : (decode [0x0D#8, 0x00#8]).toOption = some (.envSei, [0x00#8]) ∧
    (decode [0x1D#8]).toOption = none ∧ (decode []).toOption = none := by decide
theorem test_table_words : decodeTableWord 8 0xB = some .inSei ∧ decodeTableWord 8 0xE = none ∧
    decodeTableWord 8 0x1B = none ∧ decodeTableWord 0 0 = none := by decide
theorem test_mnemonics : assemble true ["INIT", "TICK", "MICROS"] = some
    [.inDiv, .inOie, .inZero, .inSei, .tick, .msSave, .msRaw, .msCli, .msOvf, .msRestore, .msScale] := by decide

/-- A build that recognises two frequencies, one of them with a factor that is out of range. -/
def build (freqHz k : Nat) : BuildConfig :=
  { microsEnabled := true, freqHz := freqHz, table := [(1000, 4), (2000, k)], promptDispatch := false }

theorem test_build_wf : (build 1000 0).wf = true ∧ (build 2000 1).wf = true ∧ (build 2000 99).wf = true := by
  decide
theorem test_build_unrecognized : (build 3000 4).wf = false := by decide
theorem test_build_factor_0 : (build 2000 0).wf = false := by decide
theorem test_build_factor_100 : (build 2000 100).wf = false := by decide
theorem test_configure : (build 2000 99).configure.toOption.map configK = some 99 ∧
    (build 2000 100).configure.toOption = none ∧ (build 3000 4).configure.toOption = none := by decide

/-! ### One-step vectors (spec/95_test_vectors.md) -/

/-- The configuration of the vectors: `MICROS_ENABLED = true` and `DIV(FREQ) = D64`, with the given `K - 1`. -/
def vectorConfig (factorIndex : Fin 99) : Config :=
  { microsEnabled := true, freqHz := 4800000, factorIndex := factorIndex, promptDispatch := false }

/-- The start state of P3: `OVF = 5`, `TCNT = 255`, `K = 4`, in `IDLE` after `init`. -/
def p3 : State :=
  { State.resetWith (vectorConfig 3) 255#8 with
    mem := [(0, 5#8)], oie := true, ie := true, div := .d64, initDone := true, phase := .idle, ticks := 1535 }

def nextOf : Result → Option State
  | .next s => some s
  | .fault _ => none
  | .refused _ => none

def refusalOf : Result → Option Refusal
  | .next _ => none
  | .fault _ => none
  | .refused r => some r

/-- V-T2 -/
theorem test_tick_wrap :
    (nextOf (exec .tick p3)).map (fun t => (t.tcnt, t.pend, t.lost, t.ticks)) = some (0#8, true, 0, 1536) := by
  decide
/-- V-T4 -/
theorem test_tick_merge : (nextOf (exec .tick { p3 with pend := true })).map
    (fun t => (t.tcnt, t.pend, t.lost)) = some (0#8, true, 1) := by decide
/-- V-O2 -/
theorem test_ovf_irq_wraps :
    (nextOf (exec .ovfIrq { p3 with pend := true, mem := Memory.writeOvf [] 0xFFFFFFFF#32 })).map
      (fun t => (t.ovf, t.pend, t.ie, t.mem)) = some (0#32, false, true, []) := by decide
/-- V-O1, and the carry into byte 1 of the cell: 0x00FF + 1. -/
theorem test_ovf_irq_carries :
    (nextOf (exec .ovfIrq { p3 with pend := true, mem := [(0, 0xFF#8)] })).map (fun t => (t.ovf, t.mem)) =
      some (256#32, [(1, 1#8)]) := by decide
/-- V-S2 -/
theorem test_ms_save_masked : (nextOf (exec .msSave { p3 with ie := false })).map
    (fun t => (t.phase, t.save, t.faults.useBeforeInit)) = some (.ms2, some false, false) := by decide
/-- V-S3 -/
theorem test_ms_save_in_boot : (nextOf (exec .msSave (State.resetWith (vectorConfig 3) 16#8))).map
    (fun t => (t.phase, t.save, t.faults.useBeforeInit)) = some (.ms2, some false, true) := by decide
/-- V-S4 -/
theorem test_ms_raw : (nextOf (exec .msRaw { p3 with phase := .ms2, tcnt := 0x64#8 })).map
    (fun t => (t.phase, t.t, t.tcnt)) = some (.ms3, some 0x64#8, 0x64#8) := by decide
/-- V-S10 -/
theorem test_ms_raw_refused : refusalOf (exec .msRaw p3) = some (.notEnabledInPhase .idle) := by decide
/-- V-S5 -/
theorem test_ms_cli : (nextOf (exec .msCli { p3 with phase := .ms3 })).map (fun t => (t.phase, t.ie)) =
    some (.ms4, false) := by decide
/-- V-S7 -/
theorem test_ms_ovf : (nextOf (exec .msOvf { p3 with phase := .ms4, ie := false, pend := true })).map
    (fun t => (t.phase, t.x, t.pend)) = some (.ms5, some 5#32, true) := by decide
/-- V-S8 -/
theorem test_ms_restore_on : (nextOf (exec .msRestore { p3 with phase := .ms5, ie := false, save := some true })).map
    (fun t => (t.phase, t.ie, t.save)) = some (.ms6, true, none) := by decide
/-- V-S9 -/
theorem test_ms_restore_off :
    (nextOf (exec .msRestore { p3 with phase := .ms5, ie := false, save := some false })).map
      (fun t => (t.phase, t.ie, t.save)) = some (.ms6, false, none) := by decide
/-- V-C2 -/
theorem test_ms_scale : (nextOf (exec .msScale { p3 with phase := .ms6, x := some 0#32, t := some 0x64#8 })).map
    (fun t => (t.phase, t.result, t.t, t.x)) = some (.idle, some 400#32, none, none) := by decide
/-- V-C21, V-C22, V-C24, V-C25 -/
theorem test_convert : convert 0x0013B13B#32 0x14#8 13 = 0x00000004#32 ∧
    convert 0x000295FA#32 0xD5#8 99 = 0x0000005F#32 ∧ convert 0x00123456#32 0x78#8 13 = 0xECA86418#32 ∧
    convert 0xABCDEF01#32 0x23#8 7 = 0xA18907F5#32 := by decide
/-- V-I1, V-I2 -/
theorem test_in_div : (nextOf (exec .inDiv (State.resetWith (vectorConfig 3) 0#8))).map
      (fun t => (t.phase, t.div)) = some (.init2, .d64) ∧
    (nextOf (exec .inDiv (State.resetWith { vectorConfig 3 with freqHz := 4799999 } 0#8))).map
      (fun t => (t.phase, t.div)) = some (.init2, .d8) := by decide
/-- V-I3 -/
theorem test_in_div_twice : (nextOf (exec .inDiv p3)).map (fun t => (t.phase, t.faults.initTwice)) =
    some (.init2, true) := by decide
/-- V-I4 -/
theorem test_in_oie : (nextOf (exec .inOie { p3 with phase := .init2, oie := false })).map
    (fun t => (t.phase, t.oie)) = some (.init3, true) := by decide
/-- V-I5 -/
theorem test_in_zero : (nextOf (exec .inZero
      { p3 with phase := .init3, tcnt := 0xC7#8, pend := true, mem := [(0, 9#8)], ie := false })).map
    (fun t => (t.phase, t.tcnt, t.pend, t.ovf, t.ticks)) = some (.init4, 0#8, true, 9#32, 0) := by decide
/-- V-I6 -/
theorem test_in_sei : (nextOf (exec .inSei { p3 with phase := .init4, ie := false, initDone := false })).map
    (fun t => (t.phase, t.ie, t.initDone)) = some (.idle, true, true) := by decide
/-- V-I8 -/
theorem test_in_sei_disabled : (nextOf (exec .inSei
      { p3 with cfg := { vectorConfig 3 with microsEnabled := false }, ie := false })).map
    (fun t => (t.phase, t.ie, t.faults.initTwice)) = some (.idle, true, true) := by decide
/-- V-I10 -/
theorem test_env_cli : (nextOf (exec .envCli p3)).map (fun t => (t.phase, t.ie)) = some (.idle, false) := by
  decide
/-- V-I12 -/
theorem test_env_cli_refused : refusalOf (exec .envCli { p3 with phase := .ms4 }) =
    some (.notEnabledInPhase .ms4) := by decide
/-- V-I11 -/
theorem test_env_sei : (nextOf (exec .envSei (State.resetWith (vectorConfig 3) 0#8))).map
    (fun t => (t.phase, t.ie)) = some (.boot, true) := by decide

/-- V-T6, V-O3, V-I9, V-S11: where an operation has no step. -/
theorem test_refusals : refusalOf (exec .tick { p3 with div := .stop }) = some .timerStopped ∧
    refusalOf (exec .ovfIrq { p3 with pend := true, ie := false }) = some .notDispatchable ∧
    refusalOf (exec .inDiv { p3 with cfg := { vectorConfig 3 with microsEnabled := false } }) =
      some .microsDisabled ∧
    refusalOf (exec .msSave { p3 with phase := .ms3 }) = some .activationInProgress := by decide

/-- The column `e` of V-R1, V-R3 and V-R4, from `ticks` and `PEND` at `MS_OVF` and `V2`. -/
theorem test_read_outcome :
    ({ p3 with v2 := 1535, ticks := 1535 } : State).readOutcome = .consistent ∧
    ({ p3 with v2 := 1535, ticks := 1536 } : State).readOutcome = .forwardTear ∧
    ({ p3 with v2 := 1536, ticks := 1536, pend := true } : State).readOutcome = .backwardTear := by decide

/-- Every operation, placed for the next step after reset, runs. -/
theorem test_placed_words_run :
    ∀ i ∈ Instr.all, (nextOf (step (State.reset.withFetchWord 8 (encode i).toNat))).isSome = true := by decide

/-! ### Witnesses: for every statement with hypotheses, data that meets them -/

theorem witness_IllFormedBuildsAreRefused :
    (∀ k, ((build 3000 4).freqHz, k) ∉ (build 3000 4).table) ∧
    (∀ k, (build 2000 k).table = [(1000, 4)] ++ ((build 2000 k).freqHz, k) :: []) ∧
    ∀ k', ((2000 : Nat), k') ∉ [((1000 : Nat), (4 : Nat))] :=
  ⟨by simp [build], fun _ => rfl, by simp⟩

theorem witness_DividerFollowsTheThreshold :
    4800000 ≤ (vectorConfig 3).freqHz ∧ ({ vectorConfig 3 with freqHz := 4799999 } : Config).freqHz < 4800000 := by
  decide

theorem witness_StepRunsTheDecodedOperation :
    ({ p3 with offers := [.op .tmr 0b0000#4] } : State).offers = .op .tmr 0b0000#4 :: [] ∧
      decodeWord 0b0000#4 = .ok .tick ∧ Instr.tick.agent = .tmr := ⟨rfl, rfl, rfl⟩

theorem witness_StepRefusesWhatSpellsNoStep :
    ({ p3 with offers := [.op .fg 0b1110#4] } : State).offers = .op .fg 0b1110#4 :: [] ∧
    ({ p3 with offers := [.op .tmr 0b1111#4] } : State).offers = .op .tmr 0b1111#4 :: [] ∧
    (({ p3 with offers := [.op .fg 0b0000#4] } : State).offers = .op .fg 0b0000#4 :: [] ∧
      decodeWord 0b0000#4 = .ok .tick ∧ Instr.tick.agent ≠ .fg) ∧
    ({ p3 with offers := [.hostReadsOvf] } : State).offers = .hostReadsOvf :: [] ∧
    ({ p3 with offers := [.hostWritesOvf 7#32] } : State).offers = .hostWritesOvf 7#32 :: [] ∧
    ({ p3 with offers := [.microsInHandler] } : State).offers = .microsInHandler :: [] :=
  ⟨rfl, rfl, ⟨rfl, rfl, by decide⟩, rfl, rfl, rfl⟩

/-- A state that no run reaches: `MICROS_ENABLED = false` in a phase of `micros`. No operation has a step. -/
def stuck : State := { p3 with cfg := { vectorConfig 3 with microsEnabled := false }, phase := .ms3 }

theorem witness_StepTakesAnEnabledOperation :
    p3.offers = [] ∧ enabled .tick p3 = true ∧ stuck.offers = [] ∧ ∀ i ∈ Instr.all, enabled i stuck = false := by
  decide

theorem witness_TickCountsAndWraps :
    (p3.cfg.microsEnabled = true ∧ p3.div ≠ .stop ∧ p3.tcnt = 255#8) ∧
    stuck.cfg.microsEnabled = false ∧ ({ p3 with div := .stop } : State).div = .stop := by decide

theorem witness_HandlerCountsOneOverflow :
    p3.cfg.microsEnabled = true ∧ p3.ie = true ∧ p3.oie = true ∧ ({ p3 with pend := true } : State).pend = true := by
  decide

theorem witness_HandlerStoresLittleEndian : (∃ t, exec .ovfIrq { p3 with pend := true } = .next t) ∧ 0 < 4 ∧ 3 < 4 :=
  ⟨⟨_, rfl⟩, by decide, by decide⟩

theorem witness_TickInsideHandlerCommutes :
    ∃ t u, exec .ovfIrq { p3 with pend := true } = .next t ∧ exec .tick t = .next u := ⟨_, _, rfl, rfl⟩

/-- The guard that the statements about foreground operations share, in a phase. -/
def guard (p : Phase) (s : State) : Bool :=
  s.cfg.microsEnabled && decide (s.phase = p) && !s.dispatchComesFirst

/-- The state of P3 inside an activation, with values in the locals of a phase. -/
def inPhase (p : Phase) (save : Option Bool) (t : Option U8) (x : Option U32) : State :=
  { p3 with phase := p, save := save, t := t, x := x, ie := false }

theorem witness_MsSaveSavesTheInterruptEnable :
    guard .idle p3 = true ∧ guard .boot (State.resetWith (vectorConfig 3) 0#8) = true ∧
      ({ p3 with phase := .ms3 } : State).phase ≠ .idle ∧ ({ p3 with phase := .ms3 } : State).phase ≠ .boot := by
  decide

theorem witness_MsRawReadsTheRawCounter : guard .ms2 { p3 with phase := .ms2 } = true ∧ p3.phase ≠ .ms2 := by
  decide
theorem witness_MsCliEntersTheCriticalSection :
    guard .ms3 { p3 with phase := .ms3 } = true ∧ p3.phase ≠ .ms3 := by decide
theorem witness_MsOvfReadsTheOverflowCounter :
    guard .ms4 { p3 with phase := .ms4 } = true ∧ p3.phase ≠ .ms4 := by decide
theorem witness_MsRestoreLeavesTheCriticalSection :
    guard .ms5 (inPhase .ms5 (some false) (some 0#8) (some 5#32)) = true ∧
      (inPhase .ms5 (some false) (some 0#8) (some 5#32)).save = some false ∧ p3.phase ≠ .ms5 := by decide
theorem witness_MsScaleReturnsTheTime :
    guard .ms6 (inPhase .ms6 none (some 0#8) (some 5#32)) = true ∧
      (inPhase .ms6 none (some 0#8) (some 5#32)).x = some 5#32 ∧
      (inPhase .ms6 none (some 0#8) (some 5#32)).t = some 0#8 ∧ p3.phase ≠ .ms6 := by decide
theorem witness_ResultRisesByKPerTick : (254#8).toNat < 255 ∧ (0#8).toNat < 255 := by decide
theorem witness_ResultWrapsFirstWhereTheTableSays :
    ((4 : Nat), (0x40000000 : Nat), 0x400000#32, 0x00#8) ∈
      [((4 : Nat), (0x40000000 : Nat), 0x400000#32, 0x00#8), (7, 0x24924925, 0x249249#32, 0x25#8),
        (13, 0x13B13B14, 0x13B13B#32, 0x14#8), (99, 0x0295FAD5, 0x0295FA#32, 0xD5#8)] ∧
    (combine 0x3FFFFF#32 0xFF#8).toNat < 0x40000000 := by decide
theorem witness_InDivSelectsTheDivider :
    guard .idle p3 = true ∧ guard .boot (State.resetWith (vectorConfig 3) 0#8) = true ∧
      stuck.cfg.microsEnabled = false ∧ stuck.phase ≠ .boot ∧ stuck.phase ≠ .idle := by decide
theorem witness_InOieEnablesTheOverflowInterrupt :
    guard .init2 { p3 with phase := .init2 } = true ∧ p3.phase ≠ .init2 := by decide
theorem witness_InZeroZeroesTheRawCounter :
    guard .init3 { p3 with phase := .init3 } = true ∧ p3.phase ≠ .init3 := by decide
theorem witness_InSeiEnablesInterruptsLast :
    guard .init4 { p3 with phase := .init4 } = true ∧ (p3.cfg.microsEnabled = true ∧ p3.phase ≠ .init4) ∧
      (stuck.cfg.microsEnabled = false ∧ stuck.phase ≠ .boot ∧ stuck.phase ≠ .idle) ∧
      ({ stuck with phase := .boot } : State).phase = .boot ∧ ({ stuck with phase := .idle } : State).phase = .idle := by
  decide
theorem witness_EnvCliOpensACriticalSection :
    guard .idle p3 = true ∧ guard .boot (State.resetWith (vectorConfig 3) 0#8) = true ∧
      stuck.phase ≠ .boot ∧ stuck.phase ≠ .idle := by decide
theorem witness_EnvSeiClosesACriticalSection :
    guard .idle { p3 with ie := false } = true ∧ guard .boot (State.resetWith (vectorConfig 3) 0#8) = true ∧
      stuck.phase ≠ .boot ∧ stuck.phase ≠ .idle := by decide
theorem witness_SecondInitKeepsTheOverflowCounter :
    p3.cfg.microsEnabled = true ∧ p3.phase = .idle ∧ p3.initDone = true ∧ p3.pend = false ∧
      ({ p3 with pend := true } : State).cfg.promptDispatch = false ∧
      ({ p3 with pend := true, ie := false } : State).ie = false := by decide

/-- Boot from reset: `IN_DIV`, a tick, `IN_OIE`, then `IN_ZERO`, and a run after it. -/
theorem witness_BootWithoutAWrapIsClean :
    ∃ z t, Instr.inZero ∉ [Instr.inDiv, .tick, .inOie] ∧
      wraps [.inDiv, .tick, .inOie] (State.resetWith (vectorConfig 3) 0x37#8) = 0 ∧
      execAll ([.inDiv, .tick, .inOie] ++ [.inZero]) (State.resetWith (vectorConfig 3) 0x37#8) = .next z ∧
      Instr.inZero ∉ [Instr.inSei, .tick] ∧ execAll [.inSei, .tick] z = .next t ∧ t.lost = 0 :=
  ⟨_, _, by decide, by decide, rfl, by decide, rfl, rfl⟩

theorem witness_WrapInTheInitWindowIsCounted : (vectorConfig 3).microsEnabled = true := rfl

theorem witness_ForegroundFollowsThePhaseTable :
    (∃ t, Instr.msSave.agent = .fg ∧ exec .msSave p3 = .next t) ∧
    (LocalsInv p3 ∧ p3.dispatchComesFirst = false ∧ (p3.phase, Instr.msSave, Phase.ms2) ∈ phaseRows p3.cfg) ∧
    (∃ t, Instr.tick.agent ≠ .fg ∧ exec .tick p3 = .next t) :=
  ⟨⟨_, rfl, rfl⟩, ⟨⟨rfl, rfl, rfl⟩, rfl, by decide⟩, ⟨_, by decide, rfl⟩⟩

theorem witness_DisabledConfigurationRefusesMicros :
    stuck.cfg.microsEnabled = false ∧ Instr.tick ≠ .inSei ∧ Instr.tick ≠ .envCli ∧ Instr.tick ≠ .envSei := by
  decide

/-- P3 with an overflow pending and prompt dispatch. -/
def prompt : State := { p3 with cfg := { vectorConfig 3 with promptDispatch := true }, pend := true }

theorem witness_PromptDispatchHoldsTheForegroundBack :
    (prompt.ie = true ∧ prompt.oie = true ∧ prompt.pend = true ∧ prompt.cfg.microsEnabled = true) ∧
    prompt.cfg.promptDispatch = true ∧ p3.cfg.promptDispatch = false ∧
    LocalsInv { p3 with pend := true } ∧ (p3.phase, Instr.envCli, Phase.idle) ∈ phaseRows p3.cfg :=
  ⟨by decide, rfl, rfl, ⟨rfl, rfl, rfl⟩, by decide⟩

theorem witness_OperationsWriteOnlyTheirRow : ∃ t, exec .tick p3 = .next t := ⟨_, rfl⟩
theorem witness_ConfigurationIsFixed :
    ∃ t, step { p3 with offers := [.op .fg 0b1100#4] } = .next t := ⟨_, rfl⟩
theorem witness_ModelFaultsAreStickyAndRaisedByTheirSteps :
    (∃ t, exec .inDiv p3 = .next t) ∧ ∃ t, exec .msSave (State.resetWith (vectorConfig 3) 0#8) = .next t :=
  ⟨⟨_, rfl⟩, ⟨_, rfl⟩⟩
theorem witness_OnlyDispatchClearsPending :
    (∃ t, exec .ovfIrq { p3 with pend := true } = .next t ∧ t.pend = false) ∧
    (∃ t, exec .tick { p3 with pend := true, ie := false } = .next t) ∧
    ∃ t, exec .tick { p3 with pend := true, oie := false } = .next t :=
  ⟨⟨_, rfl, rfl⟩, ⟨_, rfl⟩, ⟨_, rfl⟩⟩

/-- The state of P3 meets the invariant. -/
theorem p3_inv : StateInv p3 where
  memory := rfl
  locals := ⟨rfl, rfl, rfl⟩
  boot := fun _ => by constructor <;> decide
  disabled := fun h => by cases h

theorem witness_InvariantRulesOutFaults : StateInv p3 := p3_inv

theorem witness_UnsetLocalsStopTheMachine :
    guard .ms5 (inPhase .ms5 none none none) = true ∧ guard .ms6 (inPhase .ms6 none none none) = true ∧
      guard .ms6 (inPhase .ms6 none none (some 0#32)) = true ∧
      (inPhase .ms6 none none (some 0#32)).x ≠ none := by decide

theorem witness_EveryStepKeepsTheInvariant :
    StateInv { p3 with offers := [.op .fg 0b1100#4] } ∧
      ∃ t, step { p3 with offers := [.op .fg 0b1100#4] } = .next t :=
  ⟨{ memory := rfl, locals := ⟨rfl, rfl, rfl⟩, boot := fun _ => by constructor <;> decide,
     disabled := fun h => by cases h }, ⟨_, rfl⟩⟩

theorem witness_CoreNeverDeadlocks : StateInv p3 ∧ p3.offers = [] := ⟨p3_inv, rfl⟩

theorem witness_MsSaveInIdleAfterInit : StateInv p3 ∧ p3.faultFree ∧ p3.phase = .idle :=
  ⟨p3_inv, ⟨rfl, rfl⟩, rfl⟩

/-- The state of P3 at `MS_SCALE`. -/
def atScale : State := { p3 with phase := .ms6, t := some 255#8, x := some 5#32 }

theorem atScale_inv : StateInv atScale where
  memory := rfl
  locals := ⟨rfl, rfl, rfl⟩
  boot := fun _ => by constructor <;> decide
  disabled := fun h => by cases h

theorem witness_ForegroundStepsLeadToIdle :
    StateInv atScale ∧ atScale.phase.stepsLeft ≠ 0 ∧ atScale.dispatchComesFirst = false ∧
    (∃ t, Instr.msScale.agent = .fg ∧ exec .msScale atScale = .next t) ∧
    ∃ t, Instr.tick.agent ≠ .fg ∧ exec .tick atScale = .next t :=
  ⟨atScale_inv, by decide, rfl, ⟨_, rfl, rfl⟩, ⟨_, by decide, rfl⟩⟩

/-- `MS_OVF` is taken with `IE = 0`, `MS_SCALE` with values in `T` and `X`, in states of the invariant. -/
theorem witness_InvariantInsideAnActivation :
    (StateInv (inPhase .ms4 (some true) (some 255#8) none) ∧
      (inPhase .ms4 (some true) (some 255#8) none).phase = .ms4) ∧ StateInv atScale ∧ atScale.phase = .ms6 :=
  ⟨⟨{ memory := rfl, locals := ⟨rfl, rfl, rfl, rfl⟩, boot := fun _ => by constructor <;> decide,
      disabled := fun h => by cases h }, rfl⟩, atScale_inv, rfl⟩

/-- A fair run with prompt dispatch or without: the pending overflow is dispatched, the read ends, and then the
host sets `IE` for ever. -/
def fairState (promptDispatch : Bool) : Nat → State
  | 0 => { atScale with cfg := { vectorConfig 3 with promptDispatch := promptDispatch }, pend := true }
  | 1 => { atScale with cfg := { vectorConfig 3 with promptDispatch := promptDispatch }, mem := [(0, 6#8)] }
  | _ + 2 => { p3 with cfg := { vectorConfig 3 with promptDispatch := promptDispatch }, mem := [(0, 6#8)],
                       result := some 6140#32 }

def fairOp : Nat → Instr
  | 0 => .ovfIrq
  | 1 => .msScale
  | _ + 2 => .envSei

theorem fair_run (b : Bool) : FairRun (fairState b) fairOp where
  steps := fun n => by
    match n with
    | 0 => cases b <;> rfl
    | 1 => cases b <;> rfl
    | _ + 2 => cases b <;> rfl
  irqFair := fun n h => by
    have h2 := h (n + 2) (Nat.le_add_right n 2)
    cases b <;> cases h2
  fgFair := fun n _ => ⟨n + 1, Nat.le_succ n, by cases n <;> rfl⟩

theorem fairState_inv (b : Bool) : StateInv (fairState b 0) where
  memory := rfl
  locals := ⟨rfl, rfl, rfl⟩
  boot := fun _ => by constructor <;> cases b <;> decide
  disabled := fun h => by cases b <;> cases h

theorem witness_FairRunsReturnToIdle :
    ∀ b, FairRun (fairState b) fairOp ∧ StateInv (fairState b 0) ∧ (fairState b 0).phase.stepsLeft ≠ 0 ∧
      (fairState b 0).dispatchComesFirst = b :=
  fun b => ⟨fair_run b, fairState_inv b, by cases b <;> decide, by cases b <;> rfl⟩

theorem witness_HandlerStaysOutOfTheCriticalSection :
    ∃ t, Instr.msRestore ∉ [Instr.tick, .msOvf] ∧
      execAll (.msCli :: [.tick, .msOvf]) (inPhase .ms3 (some true) (some 255#8) none) = .next t :=
  ⟨_, by decide, rfl⟩

theorem witness_MicrosRestoresTheInterruptEnable :
    (∃ t, Instr.msRestore ∉ [Instr.msRaw, .tick, .ovfIrq, .msCli, .msOvf] ∧
      execAll (.msSave :: [.msRaw, .tick, .ovfIrq, .msCli, .msOvf] ++ [.msRestore]) p3 = .next t) ∧
    ∃ t, Instr.msScale ∉ [Instr.msRaw, .msCli, .tick, .msOvf, .msRestore, .ovfIrq] ∧
      execAll (.msSave :: [.msRaw, .msCli, .tick, .msOvf, .msRestore, .ovfIrq] ++ [.msScale]) p3 = .next t :=
  ⟨⟨_, by decide, rfl⟩, ⟨_, by decide, rfl⟩⟩

theorem witness_UndisturbedReadReturnsTheTime :
    guard .idle p3 = true ∧ guard .boot (State.resetWith (vectorConfig 3) 0#8) = true := by decide

theorem witness_DispatchedWrapsAreAllCounted : (∃ t, CountedWraps 1 p3 t) ∧ p3.pend = false :=
  ⟨⟨_, .more (.none p3) (is := [.tick]) rfl (by decide) (by decide) rfl⟩, rfl⟩

/-- `IN_ZERO` in a clean `init`. -/
def atZero (promptDispatch : Bool) : State :=
  { p3 with cfg := { vectorConfig 3 with promptDispatch := promptDispatch }, mem := [], ie := false,
            initDone := false, phase := .init3, tcnt := 0x37#8, ticks := 0 }

theorem atZero_inv (b : Bool) : StateInv (atZero b) where
  memory := rfl
  locals := ⟨rfl, rfl, rfl⟩
  boot := fun _ => by constructor <;> cases b <;> decide
  disabled := fun h => by cases h

theorem witness_OverflowCounterFollowsTheTicks :
    ∃ s t, exec .inZero (atZero false) = .next s ∧ Instr.inZero ∉ [Instr.tick, .inSei] ∧
      execAll [.tick, .inSei] s = .next t := ⟨_, _, rfl, by decide, rfl⟩

theorem witness_ReadIsExactUpToItsTear :
    ∃ s t, ReadAfterCleanInit (atZero false) s t [.tick, .inSei, .msSave, .msRaw, .tick, .msCli] ∧
      t.lost = 0 ∧ t.ticks < t.v2 + 256 :=
  ⟨_, _, ⟨atZero_inv false, rfl, rfl, rfl, by decide, rfl⟩, rfl, by decide⟩

theorem witness_ReadIsWithinOneOverflowPeriod :
    ∃ s t, ReadAfterCleanInit (atZero true) s t [.inSei, .msSave, .msRaw, .msCli] ∧
      t.lost = 0 ∧ t.ticks < t.v2 + 256 ∧ t.wrapsBetweenReads = 0 ∧ t.pend = false :=
  ⟨_, _, ⟨atZero_inv true, rfl, rfl, rfl, by decide, rfl⟩, rfl, by decide, rfl, rfl⟩

theorem witness_MaskedReadHasNoForwardTear :
    ∃ s t, ReadAfterCleanInit (atZero false) s t [.inSei, .envCli, .msSave, .msRaw, .tick, .msCli] ∧
      t.lost = 0 ∧ t.ticks < t.v2 + 256 ∧ t.save = some false :=
  ⟨_, _, ⟨atZero_inv false, rfl, rfl, rfl, by decide, rfl⟩, rfl, by decide, rfl⟩

theorem witness_PromptReadHasNoBackwardTear :
    ∃ s t, ReadAfterCleanInit (atZero true) s t [.inSei, .msSave, .msRaw, .tick, .msCli] ∧
      t.lost = 0 ∧ t.ticks < t.v2 + 256 ∧ t.save = some true ∧ t.cfg.promptDispatch = true :=
  ⟨_, _, ⟨atZero_inv true, rfl, rfl, rfl, by decide, rfl⟩, rfl, by decide, rfl, rfl⟩

/-- The second and third clauses ask for `MICROS_ENABLED` only, which `p3.cfg` has. -/
theorem witness_ForwardTearIsAdmitted :
    p3.cfg.microsEnabled = true ∧ p3.phase = .idle ∧ p3.div ≠ .stop ∧ p3.oie = true ∧ p3.ie = true ∧
      p3.pend = false ∧ p3.tcnt = 255#8 := by decide

theorem witness_BackwardTearIsAdmitted :
    p3.cfg.microsEnabled = true ∧ p3.phase = .idle ∧ p3.div ≠ .stop ∧ p3.pend = false ∧ p3.tcnt = 255#8 ∧
      ({ p3 with ie := false } : State).ie = false ∧ p3.cfg.promptDispatch = false := by decide

/-- The two reads of P3, with `OVF` above 2^24. -/
theorem witness_LaterReadIsAtMost255TicksBelow :
    ∃ a b₀ b ca cb,
      exec .msOvf { inPhase .ms4 (some true) (some 255#8) none with mem := [(0, 5#8), (3, 1#8)] } = .next a ∧
      execAll [.msRestore, .msScale, .tick, .ovfIrq, .msSave, .msRaw, .msCli] a = .next b₀ ∧
      exec .msOvf b₀ = .next b ∧ a.tickValue = some ca ∧ b.tickValue = some cb ∧
      a.ovf.toNat % 2 ^ 24 +
        [Instr.msRestore, .msScale, .tick, .ovfIrq, .msSave, .msRaw, .msCli].count .ovfIrq < 2 ^ 24 :=
  ⟨_, _, _, _, _, rfl, rfl, rfl, rfl, rfl, by decide⟩

end Sys2Proof.Tests
end

section
/-!
PROOFS. The statements of spec/00_scope.md: what no step reads (R14), which step comes next (R13), and the check
of a build (R9).
-/
namespace Sys2Proof.Machine

/-- A function of the next state goes inside the read of a local. -/
theorem mapNext_withLocal (f : State → State) {α : Type} (l : Local) (v : Option α) (k : α → Result) :
    mapNext f (withLocal l v k) = withLocal l v fun a => mapNext f (k a) := by
  cases v <;> rfl

/-! ### No operation reads a ghost (R14) -/

/-- No guard of a foreground step reads a ghost. -/
theorem fgStep_eraseGhosts {needsMicros : Bool} {phases : List Phase} {effect : State → Result} {s : State}
    (heffect : mapNext State.eraseGhosts (effect s.eraseGhosts) = mapNext State.eraseGhosts (effect s)) :
    mapNext State.eraseGhosts (fgStep needsMicros phases effect s.eraseGhosts) =
      mapNext State.eraseGhosts (fgStep needsMicros phases effect s) :=
  fgStep_mapNext _ State.eraseGhosts s rfl rfl rfl heffect

/-- What a tick does to the fields that are no ghosts depends on no ghost. -/
theorem State.tickOnce_eraseGhosts (s : State) :
    s.tickOnce.eraseGhosts =
      { s.eraseGhosts with tcnt := s.tcnt + 1, pend := s.pend || decide (s.tcnt = 255#8) } := by
  simp [State.eraseGhosts]

theorem State.raiseIf_eraseGhosts (s : State) (b : Bool) (m : ModelFault) :
    (s.raiseIf b m).eraseGhosts = s.eraseGhosts.raiseIf b m := by
  cases b <;> rfl

theorem State.goto_eraseGhosts (s : State) (p : Phase) : (s.goto p).eraseGhosts = s.eraseGhosts.goto p := rfl

theorem execTick_eraseGhosts (s : State) :
    mapNext State.eraseGhosts (execTick s.eraseGhosts) = mapNext State.eraseGhosts (execTick s) := by
  have hcfg : s.eraseGhosts.cfg = s.cfg := rfl
  have hdiv : s.eraseGhosts.div = s.div := rfl
  unfold execTick
  rw [hcfg, hdiv]
  split
  · rfl
  · split
    · rfl
    · simp only [mapNext, State.tickOnce_eraseGhosts]
      rfl

theorem execOvfIrq_eraseGhosts (s : State) :
    mapNext State.eraseGhosts (execOvfIrq s.eraseGhosts) = mapNext State.eraseGhosts (execOvfIrq s) := by
  have hcfg : s.eraseGhosts.cfg = s.cfg := rfl
  have hdispatch : s.eraseGhosts.dispatchable = s.dispatchable := rfl
  unfold execOvfIrq
  rw [hcfg, hdispatch]
  split
  · rfl
  · split <;> rfl

theorem execMsSave_eraseGhosts (s : State) :
    mapNext State.eraseGhosts (execMsSave s.eraseGhosts) = mapNext State.eraseGhosts (execMsSave s) := by
  have hcfg : s.eraseGhosts.cfg = s.cfg := rfl
  have hphase : s.eraseGhosts.phase = s.phase := rfl
  unfold execMsSave
  rw [hcfg, hphase]
  split
  · rfl
  · refine fgStep_eraseGhosts ?_
    simp only [mapNext, State.goto_eraseGhosts, State.raiseIf_eraseGhosts]
    rfl

/-- Wiping out the ghosts before an operation too makes no difference once they are wiped out after it. -/
theorem exec_eraseGhosts (i : Instr) (s : State) :
    mapNext State.eraseGhosts (exec i s.eraseGhosts) = mapNext State.eraseGhosts (exec i s) := by
  cases i with
  | tick => exact execTick_eraseGhosts s
  | ovfIrq => exact execOvfIrq_eraseGhosts s
  | msSave => exact execMsSave_eraseGhosts s
  | msRaw | msCli | msOvf | inOie | inZero | envCli | envSei =>
    unfold exec
    refine fgStep_eraseGhosts ?_
    rfl
  | msRestore | msScale =>
    unfold exec
    refine fgStep_eraseGhosts ?_
    simp only [mapNext_withLocal]
    rfl
  | inDiv | inSei =>
    unfold exec
    refine fgStep_eraseGhosts ?_
    simp only [mapNext, State.goto_eraseGhosts, State.raiseIf_eraseGhosts]
    rfl

/-- Settles O41: `exec_eraseGhosts` is the statement. -/
theorem ghostsAreNeverRead : Obligations.GhostsAreNeverRead := exec_eraseGhosts

/-! ### No operation reads or writes the queue of offers and the count of free choices -/

/-- The state with another queue of offers and another count of free choices. -/
def State.withBookkeeping (offers : List Offer) (turn : Nat) (s : State) : State :=
  { s with offers := offers, turn := turn }

section
variable (offers : List Offer) (turn : Nat)

theorem State.goto_withBookkeeping (s : State) (p : Phase) :
    (s.goto p).withBookkeeping offers turn = (s.withBookkeeping offers turn).goto p := rfl

theorem State.raiseIf_withBookkeeping (s : State) (b : Bool) (m : ModelFault) :
    (s.raiseIf b m).withBookkeeping offers turn = (s.withBookkeeping offers turn).raiseIf b m := by
  cases b <;> rfl

theorem State.wrap_withBookkeeping (s : State) :
    s.wrap.withBookkeeping offers turn = (s.withBookkeeping offers turn).wrap := by
  have hpend : (s.withBookkeeping offers turn).pend = s.pend := rfl
  unfold State.wrap
  rw [hpend]
  split <;> rfl

theorem State.tickOnce_withBookkeeping (s : State) :
    s.tickOnce.withBookkeeping offers turn = (s.withBookkeeping offers turn).tickOnce := by
  have htcnt : (s.withBookkeeping offers turn).tcnt = s.tcnt := rfl
  unfold State.tickOnce
  rw [htcnt]
  split
  · simp only [State.wrap_withBookkeeping]
    rfl
  · rfl

theorem fgStep_withBookkeeping {needsMicros : Bool} {phases : List Phase} {effect : State → Result} {s : State}
    (heffect : effect (s.withBookkeeping offers turn) =
      mapNext (State.withBookkeeping offers turn) (effect s)) :
    fgStep needsMicros phases effect (s.withBookkeeping offers turn) =
      mapNext (State.withBookkeeping offers turn) (fgStep needsMicros phases effect s) := by
  have hcfg : (s.withBookkeeping offers turn).cfg = s.cfg := rfl
  have hphase : (s.withBookkeeping offers turn).phase = s.phase := rfl
  have hfirst : (s.withBookkeeping offers turn).dispatchComesFirst = s.dispatchComesFirst := rfl
  unfold fgStep
  rw [hcfg, hphase, hfirst]
  split
  · rfl
  · split
    · rfl
    · split
      · rfl
      · exact heffect

theorem execTick_withBookkeeping (s : State) :
    execTick (s.withBookkeeping offers turn) = mapNext (State.withBookkeeping offers turn) (execTick s) := by
  have hcfg : (s.withBookkeeping offers turn).cfg = s.cfg := rfl
  have hdiv : (s.withBookkeeping offers turn).div = s.div := rfl
  unfold execTick
  rw [hcfg, hdiv, ← State.tickOnce_withBookkeeping]
  split
  · rfl
  · split <;> rfl

theorem execOvfIrq_withBookkeeping (s : State) :
    execOvfIrq (s.withBookkeeping offers turn) =
      mapNext (State.withBookkeeping offers turn) (execOvfIrq s) := by
  have hcfg : (s.withBookkeeping offers turn).cfg = s.cfg := rfl
  have hdispatch : (s.withBookkeeping offers turn).dispatchable = s.dispatchable := rfl
  unfold execOvfIrq
  rw [hcfg, hdispatch]
  split
  · rfl
  · split <;> rfl

theorem execMsSave_withBookkeeping (s : State) :
    execMsSave (s.withBookkeeping offers turn) =
      mapNext (State.withBookkeeping offers turn) (execMsSave s) := by
  have hcfg : (s.withBookkeeping offers turn).cfg = s.cfg := rfl
  have hphase : (s.withBookkeeping offers turn).phase = s.phase := rfl
  unfold execMsSave
  rw [hcfg, hphase]
  split
  · rfl
  · refine fgStep_withBookkeeping offers turn ?_
    simp only [mapNext, State.goto_withBookkeeping, State.raiseIf_withBookkeeping]
    rfl

/-- An operation carries another queue of offers and another count of free choices through, and does not tell
them apart. -/
theorem exec_withBookkeeping (i : Instr) (s : State) :
    exec i (s.withBookkeeping offers turn) = mapNext (State.withBookkeeping offers turn) (exec i s) := by
  cases i with
  | tick => exact execTick_withBookkeeping offers turn s
  | ovfIrq => exact execOvfIrq_withBookkeeping offers turn s
  | msSave => exact execMsSave_withBookkeeping offers turn s
  | msRaw | msCli | msOvf | inOie | inZero | envCli | envSei =>
    unfold exec
    refine fgStep_withBookkeeping offers turn ?_
    rfl
  | msRestore | msScale =>
    unfold exec
    refine fgStep_withBookkeeping offers turn ?_
    simp only [mapNext_withLocal]
    rfl
  | inDiv | inSei =>
    unfold exec
    refine fgStep_withBookkeeping offers turn ?_
    simp only [mapNext, State.goto_withBookkeeping, State.raiseIf_withBookkeeping]
    rfl

/-- An operation that has a step has it with any other queue of offers and count of free choices. -/
theorem exec_withBookkeeping_of_enabled {i : Instr} {s : State} (h : enabled i s = true) :
    ∃ t, exec i (s.withBookkeeping offers turn) = .next t := by
  obtain ⟨t, ht⟩ := (enabled_iff i s).1 h
  exact ⟨t.withBookkeeping offers turn, by rw [exec_withBookkeeping, ht]; rfl⟩

end

/-! ### Where nothing is offered (R13) -/

/-- The step of a state with no offers runs what the free choice has drawn. -/
theorem step_of_drawOffer {s : State} {i : Instr} (hs : s.offers = []) (hdraw : drawOffer s = some (offerOf i)) :
    step s = exec i { s with turn := s.turn + 1 } := by
  have hnext : nextOffer s = some (offerOf i, { s with turn := s.turn + 1 }) := by
    simp [nextOffer, hs, hdraw]
  simp only [step, stepOnce, hnext, runOffer_offerOf]

/-- A state with no offers and no free choice is stuck. -/
theorem step_of_drawOffer_none {s : State} (hs : s.offers = []) (hdraw : drawOffer s = none) :
    step s = .fault .noEnabledStep := by
  have hnext : nextOffer s = none := by simp [nextOffer, hs, hdraw]
  simp only [step, stepOnce, hnext]

/-- Settles O9: what is drawn is enabled, and stays so when the count of free choices goes up. -/
theorem stepTakesAnEnabledOperation : Obligations.StepTakesAnEnabledOperation := by
  intro s hs
  obtain ⟨j, hj, hdraw⟩ | ⟨hops, hdraw⟩ := drawOffer_cases s
  · have hstep := step_of_drawOffer hs hdraw
    refine ⟨fun i _ => ?_, fun hnone => ?_⟩
    · obtain ⟨t, ht⟩ := exec_withBookkeeping_of_enabled s.offers (s.turn + 1) hj
      exact ⟨j, t, hj, hstep, hstep.trans ht⟩
    · simp [hnone j] at hj
  · refine ⟨fun i hi => ?_, fun _ => step_of_drawOffer_none hs hdraw⟩
    simp [← mem_enabledOps, hops] at hi

end Sys2Proof.Machine

namespace Sys2Proof

/-! ### The check of a build (R9) -/

/-- Rows of other frequencies are passed over. -/
theorem BuildConfig.lookupFactor_append {above : List (Nat × Nat)} {freq : Nat} (rows : List (Nat × Nat))
    (h : ∀ k, (freq, k) ∉ above) :
    BuildConfig.lookupFactor (above ++ rows) freq = BuildConfig.lookupFactor rows freq := by
  induction above with
  | nil => rfl
  | cons row above ih =>
    obtain ⟨f, k⟩ := row
    have hne : f ≠ freq := fun hf => h k (by simp [hf])
    have habove : ∀ k', (freq, k') ∉ above := fun k' hk' => h k' (List.mem_cons_of_mem _ hk')
    simp only [List.cons_append, BuildConfig.lookupFactor, if_neg hne, ih habove]

/-- The first row of a frequency gives its factor. -/
theorem BuildConfig.lookupFactor_first {above : List (Nat × Nat)} {freq : Nat} (k : Nat)
    (below : List (Nat × Nat)) (h : ∀ k', (freq, k') ∉ above) :
    BuildConfig.lookupFactor (above ++ (freq, k) :: below) freq = some k := by
  rw [BuildConfig.lookupFactor_append _ h, BuildConfig.lookupFactor, if_pos rfl]

/-- A frequency with no row has no factor. -/
theorem BuildConfig.lookupFactor_eq_none {table : List (Nat × Nat)} {freq : Nat} (h : ∀ k, (freq, k) ∉ table) :
    BuildConfig.lookupFactor table freq = none := by
  simpa [BuildConfig.lookupFactor] using BuildConfig.lookupFactor_append [] h

theorem BuildConfig.configure_of_none {b : BuildConfig} (h : BuildConfig.lookupFactor b.table b.freqHz = none) :
    b.configure = .error (.unrecognizedFrequency b.freqHz) := by
  simp only [BuildConfig.configure, h]

theorem BuildConfig.configure_of_out_of_range {b : BuildConfig} {k : Nat}
    (h : BuildConfig.lookupFactor b.table b.freqHz = some k) (hk : ¬ (1 ≤ k ∧ k ≤ 99)) :
    b.configure = .error (.factorOutOfRange k) := by
  simp only [BuildConfig.configure, h, dif_neg hk]

theorem BuildConfig.configure_of_in_range {b : BuildConfig} {k : Nat}
    (h : BuildConfig.lookupFactor b.table b.freqHz = some k) (hk : 1 ≤ k ∧ k ≤ 99) :
    b.configure = .ok
      { microsEnabled := b.microsEnabled, freqHz := b.freqHz,
        factorIndex := ⟨k - 1, by omega⟩, promptDispatch := b.promptDispatch } := by
  simp only [BuildConfig.configure, h, dif_pos hk]

/-- Settles O3: the three outcomes of the check, by what the table's first row of the frequency says. -/
theorem illFormedBuildsAreRefused : Obligations.IllFormedBuildsAreRefused := by
  intro b
  refine ⟨fun hnone => BuildConfig.configure_of_none (BuildConfig.lookupFactor_eq_none hnone),
    fun above k below htable habove => ?_⟩
  have hlookup : BuildConfig.lookupFactor b.table b.freqHz = some k :=
    htable ▸ BuildConfig.lookupFactor_first k below habove
  refine ⟨BuildConfig.configure_of_out_of_range hlookup, fun hk => ?_⟩
  exact ⟨_, BuildConfig.configure_of_in_range hlookup hk, Nat.sub_add_cancel hk.1, rfl, rfl, rfl⟩

end Sys2Proof
end

section
/-!
PROOFS. The statements of spec/30_encoding.md: the decoder's reading of the operation map (R81, R83), and what the
configuration without `micros` refuses (R86).
-/
namespace Sys2Proof

/-! ### The decoder on the operation map (R81, R83) -/

/-- The code of each row of R81 selects its row. -/
@[simp] theorem decodeWord_encode (i : Instr) : decodeWord (encode i) = .ok i := by
  cases i <;> rfl

/-- R84: a code that stands after the last row is reserved. -/
theorem decodeWord_reserved {w : OpWord} (h : 14 ≤ w.toNat) : decodeWord w = .error (.reserved w) := by
  unfold decodeWord
  split
  case h_15 => rfl
  all_goals omega

/-- Settles O1: the first fourteen words are the codes of R81's rows, and the last two stand after them. -/
theorem wordsDecodeAsTheOperationMap : Obligations.WordsDecodeAsTheOperationMap :=
  ⟨decodeWord_encode .tick, decodeWord_encode .ovfIrq, decodeWord_encode .msSave, decodeWord_encode .msRaw,
    decodeWord_encode .msCli, decodeWord_encode .msOvf, decodeWord_encode .msRestore,
    decodeWord_encode .msScale, decodeWord_encode .inDiv, decodeWord_encode .inOie, decodeWord_encode .inZero,
    decodeWord_encode .inSei, decodeWord_encode .envCli, decodeWord_encode .envSei,
    decodeWord_reserved (by decide), decodeWord_reserved (by decide)⟩

end Sys2Proof

namespace Sys2Proof.Machine

/-! ### The configuration without `micros` (R86) -/

/-- A foreground step that needs `micros` is refused where `micros` does not exist, before its phase or its effect
is looked at. -/
theorem fgStep_of_disabled (phases : List Phase) (effect : State → Result) {s : State}
    (h : s.cfg.microsEnabled = false) : fgStep true phases effect s = .refused .microsDisabled := by
  simp [fgStep, h]

/-- R86. `TICK` and `OVF_IRQ` test the configuration themselves; the others are foreground steps that need `micros`,
and in this configuration `MS_SAVE` makes no test for an activation in progress before its foreground step. -/
theorem exec_of_disabled {i : Instr} {s : State} (h : s.cfg.microsEnabled = false) (hinSei : i ≠ .inSei)
    (henvCli : i ≠ .envCli) (henvSei : i ≠ .envSei) : exec i s = .refused .microsDisabled := by
  cases i with
  | tick => simp [exec, execTick, h]
  | ovfIrq => simp [exec, execOvfIrq, h]
  | msSave => simp [exec, execMsSave, fgStep_of_disabled, h]
  | msRaw | msCli | msOvf | msRestore | msScale | inDiv | inOie | inZero =>
    unfold exec
    exact fgStep_of_disabled _ _ h
  | inSei => exact absurd rfl hinSei
  | envCli => exact absurd rfl henvCli
  | envSei => exact absurd rfl henvSei

/-- Settles O35: `INIT` expands by definition, and `exec_of_disabled` gives the refusals. -/
theorem disabledConfigurationRefusesMicros : Obligations.DisabledConfigurationRefusesMicros :=
  ⟨rfl, fun _ _ => exec_of_disabled⟩

end Sys2Proof.Machine
end

section
/-!
PROOFS. The statements of spec/40_overflow.md: the tick (R100 to R102), the overflow interrupt (R103 to R108), and
the two counts of overflows (R109, R110).
-/
namespace Sys2Proof.Machine

/-! ### The tick (R100 to R102) -/

/-- All that a tick writes, in one record: `wrap`'s two cases are the values of `PEND` and `lost`. -/
theorem State.tickOnce_eq (s : State) :
    s.tickOnce =
      { s with tcnt := s.tcnt + 1, ticks := s.ticks + 1, pend := s.pend || decide (s.tcnt = 255#8),
               lost := s.lost + (s.pend && decide (s.tcnt = 255#8)).toNat } := by
  by_cases hwrap : s.tcnt = 255#8
  · cases hpend : s.pend <;> simp [State.tickOnce, State.wrap, hwrap, hpend]
  · simp [State.tickOnce, hwrap]

/-- A tick whose guard holds has its effect. -/
theorem execTick_run {s : State} (hm : s.cfg.microsEnabled = true) (hd : s.div ≠ .stop) :
    exec .tick s = .next s.tickOnce := by
  simp [exec, execTick, hm, hd]

/-- Settles O11: the cases are those of `State.tickOnce_eq`, and `execTick_next` says that the guard is needed. -/
theorem tickCountsAndWraps : Obligations.TickCountsAndWraps := by
  refine ⟨⟨rfl, rfl⟩, fun s => ⟨fun hm hd => ?_, fun hoff t ht => ?_⟩⟩
  · rw [execTick_run hm hd, State.tickOnce_eq]
    split
    case isTrue hbelow => simp [hbelow]
    case isFalse hwrap =>
      have htcnt : s.tcnt = 255#8 := Decidable.not_not.1 hwrap
      split <;> simp_all
  · obtain ⟨hm, hd, -⟩ := execTick_next ht
    obtain hoff | hstop := hoff
    · simp [hm] at hoff
    · exact hd hstop

/-! ### The overflow interrupt (R103 to R108) -/

/-- An overflow interrupt whose guard holds has its effect. -/
theorem execOvfIrq_run {s : State} (h : s.dispatchable = true) :
    exec .ovfIrq s = .next s.interruptEntry.handlerBody.interruptReturn := by
  have hm := ((State.dispatchable_iff s).1 h).1
  simp [exec, execOvfIrq, hm, h]

/-- Settles O12: `OVF` is read as it was written, and the fields that the handler does not write are those of `s` by
definition. -/
theorem handlerCountsOneOverflow : Obligations.HandlerCountsOneOverflow := by
  refine ⟨⟨rfl, rfl⟩, fun s hm hie hoie hpend => ?_⟩
  have hdispatch := (State.dispatchable_iff s).2 ⟨hm, hie, hpend, hoie⟩
  exact ⟨_, execOvfIrq_run hdispatch, State.ovf_handlerBody _, rfl, rfl,
    fun _ ha => Memory.readByte_writeOvf_other _ _ ha, rfl⟩

/-- R108: a tick writes none of the fields that the handler's body reads or writes. -/
theorem State.handlerBody_tickOnce (s : State) : s.handlerBody.tickOnce = s.tickOnce.handlerBody := by
  simp only [State.tickOnce_eq]
  rfl

theorem State.interruptReturn_tickOnce (s : State) : s.interruptReturn.tickOnce = s.tickOnce.interruptReturn := by
  simp only [State.tickOnce_eq]
  rfl

/-- Settles O15: the tick moves from behind the return to before it, and then to before the body. -/
theorem tickInsideHandlerCommutes : Obligations.TickInsideHandlerCommutes := by
  intro s t u ht hu
  obtain ⟨-, rfl⟩ := execOvfIrq_next ht
  obtain ⟨-, -, rfl⟩ := execTick_next hu
  rw [State.interruptReturn_tickOnce, State.handlerBody_tickOnce]
  exact ⟨rfl, rfl⟩

/-! ### What an operation leaves of the counts -/

/-- R69, R85: the timer and the interrupt unit have one step each. -/
theorem Instr.tick_or_ovfIrq_or_foreground (i : Instr) : i = .tick ∨ i = .ovfIrq ∨ i.agent = .fg := by
  cases i <;> decide

/-- No foreground step writes `OVF` or `PEND`, and only `IN_ZERO` writes `TCNT` and the ghosts that count ticks. -/
theorem exec_foreground_keeps_counts {i : Instr} {s t : State} (hfg : i.agent = .fg) (h : exec i s = .next t) :
    t.mem = s.mem ∧ t.pend = s.pend ∧
      (i ≠ .inZero → t.tcnt = s.tcnt ∧ t.ticks = s.ticks ∧ t.lost = s.lost) := by
  cases i with
  | tick | ovfIrq => cases hfg
  | msSave => obtain ⟨-, -, -, rfl⟩ := execMsSave_next h; simp
  | msRaw => obtain ⟨-, -, -, rfl⟩ := execMsRaw_next h; simp
  | msCli => obtain ⟨-, -, -, rfl⟩ := execMsCli_next h; simp
  | msOvf => obtain ⟨-, -, -, rfl⟩ := execMsOvf_next h; simp
  | msRestore => obtain ⟨-, -, -, _, -, rfl⟩ := execMsRestore_next h; simp
  | msScale => obtain ⟨-, -, -, _, _, -, -, rfl⟩ := execMsScale_next h; simp
  | inDiv => obtain ⟨-, -, -, rfl⟩ := execInDiv_next h; simp
  | inOie => obtain ⟨-, -, -, rfl⟩ := execInOie_next h; simp
  | inZero => obtain ⟨-, -, -, rfl⟩ := execInZero_next h; simp
  | inSei => obtain ⟨-, -, rfl⟩ := execInSei_next h; simp
  | envCli => obtain ⟨-, -, rfl⟩ := execEnvCli_next h; simp
  | envSei => obtain ⟨-, -, rfl⟩ := execEnvSei_next h; simp

/-- Only the handler writes `OVF`. -/
theorem exec_keeps_ovf {i : Instr} {s t : State} (hi : i ≠ .ovfIrq) (h : exec i s = .next t) : t.ovf = s.ovf := by
  obtain rfl | hirq | hfg := Instr.tick_or_ovfIrq_or_foreground i
  · obtain ⟨-, -, rfl⟩ := execTick_next h
    exact State.ovf_tickOnce s
  · exact absurd hirq hi
  · obtain ⟨hmem, -, -⟩ := exec_foreground_keeps_counts hfg h
    exact State.ovf_eq_of_mem_eq hmem

theorem execAll_keeps_ovf {is : List Instr} {s t : State} (his : Instr.ovfIrq ∉ is)
    (h : execAll is s = .next t) : t.ovf = s.ovf :=
  execAll_keeps (P := fun u => u.ovf = s.ovf)
    (fun _ hi _ _ hu hstep => (exec_keeps_ovf (fun heq => his (heq ▸ hi)) hstep).trans hu) rfl h

/-! ### Wraps that are dispatched one by one (R109) -/

/-- Settles O52, by induction on the segments: one that ends with a dispatch adds 1 to `OVF` there and nowhere
before, and leaves `PEND` clear. -/
theorem dispatchedWrapsAreAllCounted : Obligations.DispatchedWrapsAreAllCounted := by
  intro n s t hcount hpend
  induction hcount with
  | none s => simp [hpend]
  | @more n s u v t is _ run noDispatch _ dispatch ih =>
    obtain ⟨hovf, -⟩ := ih hpend
    obtain ⟨-, rfl⟩ := execOvfIrq_next dispatch
    have hsegment : v.ovf = u.ovf := execAll_keeps_ovf noDispatch run
    refine ⟨?_, rfl⟩
    simp [hsegment, hovf, BitVec.ofNat_add, BitVec.add_assoc]

/-! ### The overflow counter against the ticks (R110) -/

/-- A tick adds 1 to the overflows seen exactly at a wrap, whether it finds one pending or not. -/
theorem State.overflowsSeen_tickOnce (s : State) :
    s.tickOnce.overflowsSeen = s.overflowsSeen + (decide (s.tcnt = 255#8)).toNat := by
  unfold State.overflowsSeen
  cases hpend : s.pend <;> simp [hpend] <;> omega

/-- R103: a dispatch moves the pending overflow into `OVF`. -/
theorem State.overflowsSeen_dispatched {s : State} (hpend : s.pend = true) :
    s.interruptEntry.handlerBody.interruptReturn.overflowsSeen % 2 ^ 32 = s.overflowsSeen % 2 ^ 32 := by
  simp [State.overflowsSeen, hpend, BitVec.toNat_add]

/-- R110 and R142, about a state in a run after an `IN_ZERO` that saw `base` overflows in `OVF` and `PEND`. -/
structure CountFollowsTicks (base : Nat) (s : State) : Prop where
  overflows : s.overflowsSeen % 2 ^ 32 = (base + s.ticks / 256) % 2 ^ 32
  raw : s.tcnt.toNat = s.ticks % 256

theorem countFollowsTicks_inZero {z s : State} (h : exec .inZero z = .next s) :
    CountFollowsTicks (z.ovf.toNat + z.pend.toNat) s := by
  have hovf : s.ovf = z.ovf := exec_keeps_ovf (by decide) h
  obtain ⟨-, -, -, rfl⟩ := execInZero_next h
  exact ⟨by simp [State.overflowsSeen, hovf], rfl⟩

/-- While `TCNT` is `ticks` modulo 256, it wraps just where `ticks` completes a period. -/
theorem State.periods_after_tick {s : State} (hraw : s.tcnt.toNat = s.ticks % 256) :
    (s.ticks + 1) / 256 = s.ticks / 256 + (decide (s.tcnt = 255#8)).toNat := by
  by_cases hwrap : s.tcnt = 255#8
  · have htop : s.ticks % 256 = 255 := by rw [← hraw, hwrap]; rfl
    rw [decide_eq_true hwrap, Bool.toNat_true]
    omega
  · have hbelow : s.tcnt.toNat ≠ 255 := fun heq => hwrap (BitVec.eq_of_toNat_eq heq)
    rw [decide_eq_false hwrap, Bool.toNat_false]
    omega

theorem CountFollowsTicks.tickOnce {base : Nat} {s : State} (hs : CountFollowsTicks base s) :
    CountFollowsTicks base s.tickOnce := by
  obtain ⟨hovf, hraw⟩ := hs
  constructor
  · rw [State.overflowsSeen_tickOnce, State.tickOnce_ticks, State.periods_after_tick hraw, ← Nat.add_assoc,
      Nat.add_mod, hovf, ← Nat.add_mod]
  · simp [BitVec.toNat_add, hraw]

theorem exec_keeps_countFollowsTicks {base : Nat} {i : Instr} {s t : State} (hi : i ≠ .inZero)
    (hs : CountFollowsTicks base s) (h : exec i s = .next t) : CountFollowsTicks base t := by
  obtain rfl | rfl | hfg := Instr.tick_or_ovfIrq_or_foreground i
  · obtain ⟨-, -, rfl⟩ := execTick_next h
    exact hs.tickOnce
  · obtain ⟨hdispatch, rfl⟩ := execOvfIrq_next h
    obtain ⟨-, -, hpend, -⟩ := (State.dispatchable_iff s).1 hdispatch
    exact ⟨(State.overflowsSeen_dispatched hpend).trans hs.overflows, hs.raw⟩
  · obtain ⟨hmem, hpend, hcounter⟩ := exec_foreground_keeps_counts hfg h
    obtain ⟨htcnt, hticks, hlost⟩ := hcounter hi
    have hseen : t.overflowsSeen = s.overflowsSeen := by
      simp only [State.overflowsSeen, State.ovf_eq_of_mem_eq hmem, hpend, hlost]
    exact ⟨by rw [hseen, hticks]; exact hs.overflows, by rw [htcnt, hticks]; exact hs.raw⟩

/-- Settles O53: `CountFollowsTicks` holds after `IN_ZERO` and every other step keeps it; the rest solves its
congruence for `OVF`. -/
theorem overflowCounterFollowsTheTicks : Obligations.OverflowCounterFollowsTheTicks := by
  intro z s t is hzero his hrun
  obtain ⟨hseen, hraw⟩ := execAll_keeps
    (fun i hi _ _ => exec_keeps_countFollowsTicks (fun heq => his (heq ▸ hi)))
    (countFollowsTicks_inZero hzero) hrun
  refine ⟨BitVec.eq_of_toNat_eq ?_, hraw⟩
  have hlt := t.ovf.isLt
  simp only [State.overflowsSeen] at hseen
  rw [BitVec.toNat_ofInt]
  omega

end Sys2Proof.Machine
end

section
/-!
PROOFS. The statements of spec/41_micros_sync.md: steps 2 to 5 of the `micros` read (R132 to R135), and what an
activation leaves of `IE` (R136).
-/
namespace Sys2Proof.Machine

/-! ### The effect of a step whose guard holds (R132 to R135) -/

section
variable {s : State} (hm : s.cfg.microsEnabled = true) (hd : s.dispatchComesFirst = false)
include hm hd

theorem execMsRaw_run (hp : s.phase = .ms2) :
    exec .msRaw s = .next (({ s with t := some s.tcnt, v2 := s.ticks } : State).goto .ms3) := by
  unfold exec execMsRaw
  exact fgStep_run _ (fun _ => hm) (List.mem_singleton.2 hp) hd

theorem execMsCli_run (hp : s.phase = .ms3) : exec .msCli s = .next ((s.setIe false).goto .ms4) := by
  unfold exec execMsCli
  exact fgStep_run _ (fun _ => hm) (List.mem_singleton.2 hp) hd

theorem execMsOvf_run (hp : s.phase = .ms4) :
    exec .msOvf s = .next (({ s with x := some s.ovf } : State).goto .ms5) := by
  unfold exec execMsOvf
  exact fgStep_run _ (fun _ => hm) (List.mem_singleton.2 hp) hd

theorem execMsRestore_run {b : Bool} (hp : s.phase = .ms5) (hsave : s.save = some b) :
    exec .msRestore s = .next (({ s.setIe b with save := none } : State).goto .ms6) := by
  unfold exec execMsRestore
  rw [fgStep_run _ (fun _ => hm) (List.mem_singleton.2 hp) hd, hsave, withLocal_some]

end

/-- R134. -/
theorem LocalsInv.ie_of_ms4 {s : State} (h : LocalsInv s) (hp : s.phase = .ms4) : s.ie = false := by
  simp only [LocalsInv, hp] at h
  obtain ⟨-, -, -, hie⟩ := h
  exact hie

/-- Settles O17: the effect is `execMsRaw_run`, and `execMsRaw_next` says that the phase is needed. -/
theorem msRawReadsTheRawCounter : Obligations.MsRawReadsTheRawCounter := by
  refine ⟨⟨decodeWord_encode .msRaw, rfl⟩, fun s => ⟨fun hm hp hd => execMsRaw_run hm hd hp, fun hp t ht => ?_⟩⟩
  obtain ⟨-, hms2, -⟩ := execMsRaw_next ht
  exact hp hms2

/-- Settles O18: the effect is `execMsCli_run`, and `execMsCli_next` says that the phase is needed. -/
theorem msCliEntersTheCriticalSection : Obligations.MsCliEntersTheCriticalSection := by
  refine ⟨⟨decodeWord_encode .msCli, rfl⟩, fun s => ⟨fun hm hp hd => execMsCli_run hm hd hp, fun hp t ht => ?_⟩⟩
  obtain ⟨-, hms3, -⟩ := execMsCli_next ht
  exact hp hms3

/-- Settles O19: the effect is `execMsOvf_run`, `execMsOvf_next` says that the phase is needed, and `IE` is 0 by the
row of `MS4` in the invariant of the locals. -/
theorem msOvfReadsTheOverflowCounter : Obligations.MsOvfReadsTheOverflowCounter := by
  refine ⟨⟨decodeWord_encode .msOvf, rfl⟩, fun s =>
    ⟨fun hm hp hd => execMsOvf_run hm hd hp, fun hp t ht => ?_, fun hinv => hinv.locals.ie_of_ms4⟩⟩
  obtain ⟨-, hms4, -⟩ := execMsOvf_next ht
  exact hp hms4

/-- Settles O20: the effect is `execMsRestore_run`, and `execMsRestore_next` says that the phase is needed. -/
theorem msRestoreLeavesTheCriticalSection : Obligations.MsRestoreLeavesTheCriticalSection := by
  refine ⟨⟨decodeWord_encode .msRestore, rfl⟩, fun s =>
    ⟨fun _ hm hp hd hsave => execMsRestore_run hm hd hp hsave, fun hp t ht => ?_⟩⟩
  obtain ⟨-, hms5, -⟩ := execMsRestore_next ht
  exact hp hms5

/-! ### What the agents do to the sequence of an activation (R33, R105) -/

/-- R105: the other agents leave the foreground's sequence alone. The handler sets `IE` at its return, but it is
dispatched only where `IE` is set. -/
theorem exec_background_keeps_sequence {i : Instr} {s t : State} (hbg : i.agent ≠ .fg) (h : exec i s = .next t) :
    t.phase = s.phase ∧ t.save = s.save ∧ t.ie = s.ie := by
  obtain rfl | rfl | hfg := Instr.tick_or_ovfIrq_or_foreground i
  · obtain ⟨-, -, rfl⟩ := execTick_next h
    simp
  · obtain ⟨hdispatch, rfl⟩ := execOvfIrq_next h
    obtain ⟨-, hie, -, -⟩ := (State.dispatchable_iff s).1 hdispatch
    simp [hie]
  · exact absurd hfg hbg

/-- R210, R211: the host's operations stay in their phase, in both configurations. -/
theorem mem_phaseRows_host (c : Config) {i : Instr} {p : Phase} (hi : i = .envCli ∨ i = .envSei)
    (hp : p = .boot ∨ p = .idle) : (p, i, p) ∈ phaseRows c := by
  obtain rfl | rfl := hi <;> obtain rfl | rfl := hp <;> cases hm : c.microsEnabled <;>
    simp [phaseRows, phaseTable, phaseTableDisabled, hm]

/-- R33: a foreground step is a row of the phase table. -/
theorem exec_foreground_mem_phaseRows {i : Instr} {s t : State} (hfg : i.agent = .fg) (h : exec i s = .next t) :
    (s.phase, i, t.phase) ∈ phaseRows s.cfg := by
  cases i with
  | tick | ovfIrq => cases hfg
  | msSave =>
    obtain ⟨hm, hp, -, rfl⟩ := execMsSave_next h
    obtain hp | hp := hp <;> simp [phaseRows, phaseTable, hm, hp]
  | msRaw => obtain ⟨hm, hp, -, rfl⟩ := execMsRaw_next h; simp [phaseRows, phaseTable, hm, hp]
  | msCli => obtain ⟨hm, hp, -, rfl⟩ := execMsCli_next h; simp [phaseRows, phaseTable, hm, hp]
  | msOvf => obtain ⟨hm, hp, -, rfl⟩ := execMsOvf_next h; simp [phaseRows, phaseTable, hm, hp]
  | msRestore => obtain ⟨hm, hp, -, _, -, rfl⟩ := execMsRestore_next h; simp [phaseRows, phaseTable, hm, hp]
  | msScale => obtain ⟨hm, hp, -, _, _, -, -, rfl⟩ := execMsScale_next h; simp [phaseRows, phaseTable, hm, hp]
  | inDiv =>
    obtain ⟨hm, hp, -, rfl⟩ := execInDiv_next h
    obtain hp | hp := hp <;> simp [phaseRows, phaseTable, hm, hp]
  | inOie => obtain ⟨hm, hp, -, rfl⟩ := execInOie_next h; simp [phaseRows, phaseTable, hm, hp]
  | inZero => obtain ⟨hm, hp, -, rfl⟩ := execInZero_next h; simp [phaseRows, phaseTable, hm, hp]
  | inSei =>
    obtain ⟨hp, -, rfl⟩ := execInSei_next h
    cases hm : s.cfg.microsEnabled with
    | true =>
      have hp : s.phase = .init4 := by simpa [inSeiPhases, hm] using hp
      simp [phaseRows, phaseTable, hm, hp]
    | false =>
      have hp : s.phase = .boot ∨ s.phase = .idle := by simpa [inSeiPhases, hm] using hp
      obtain hp | hp := hp <;> simp [phaseRows, phaseTableDisabled, hm, hp]
  | envCli => obtain ⟨hp, -, rfl⟩ := execEnvCli_next h; exact mem_phaseRows_host s.cfg (.inl rfl) hp
  | envSei => obtain ⟨hp, -, rfl⟩ := execEnvSei_next h; exact mem_phaseRows_host s.cfg (.inr rfl) hp

/-- R33: the one foreground operation that an activation takes in a phase; none outside an activation. -/
def Phase.activationOp : Phase → Option Instr
  | .ms2 => some .msRaw
  | .ms3 => some .msCli
  | .ms4 => some .msOvf
  | .ms5 => some .msRestore
  | .ms6 => some .msScale
  | .boot | .init2 | .init3 | .init4 | .idle => none

/-- In an activation the phase determines the foreground step. -/
theorem eq_of_activationOp {i j : Instr} {s t : State} (hop : s.phase.activationOp = some j)
    (hfg : i.agent = .fg) (h : exec i s = .next t) : i = j := by
  have hrow := exec_foreground_mem_phaseRows hfg h
  have honly : ∀ r ∈ phaseTable ++ phaseTableDisabled, r.1.activationOp = some j → r.2.1 = j := by
    cases j <;> decide
  refine honly (s.phase, i, t.phase) (List.mem_append.2 ?_) hop
  unfold phaseRows at hrow
  split at hrow
  · exact .inl hrow
  · exact .inr hrow

/-! ### `IE` through an activation (R136) -/

/-- From `MS_SAVE` to `MS_CLI`, in an activation that found `b` in `IE`. -/
structure BeforeCritical (b : Bool) (s : State) : Prop where
  phase : s.phase = .ms2 ∨ s.phase = .ms3
  save : s.save = some b
  ie : s.ie = b

/-- R138: the critical section, from `MS_CLI` to `MS_RESTORE`. -/
structure InCritical (s : State) : Prop where
  phase : s.phase = .ms4 ∨ s.phase = .ms5
  ie : s.ie = false

/-- From `MS_RESTORE` to `MS_SCALE`, in an activation that found `b` in `IE`. -/
structure AfterCritical (b : Bool) (s : State) : Prop where
  phase : s.phase = .ms6
  ie : s.ie = b

/-- From `MS_SAVE` to `MS_RESTORE`: `SAVE` holds the `b` that the activation found in `IE`. -/
def BeforeRestore (b : Bool) (s : State) : Prop := BeforeCritical b s ∨ InCritical s ∧ s.save = some b

theorem beforeCritical_msSave {s t : State} (h : exec .msSave s = .next t) : BeforeCritical s.ie t := by
  obtain ⟨-, -, -, rfl⟩ := execMsSave_next h
  exact ⟨.inl rfl, by simp, by simp⟩

theorem exec_of_beforeCritical {b : Bool} {i : Instr} {s t : State} (hs : BeforeCritical b s)
    (h : exec i s = .next t) : BeforeRestore b t := by
  obtain ⟨hphase, hsave, hie⟩ := hs
  by_cases hfg : i.agent = .fg
  · obtain hp | hp := hphase
    · obtain rfl := eq_of_activationOp (j := .msRaw) (by rw [hp]; rfl) hfg h
      obtain ⟨-, -, -, rfl⟩ := execMsRaw_next h
      exact .inl ⟨.inr rfl, hsave, hie⟩
    · obtain rfl := eq_of_activationOp (j := .msCli) (by rw [hp]; rfl) hfg h
      obtain ⟨-, -, -, rfl⟩ := execMsCli_next h
      exact .inr ⟨⟨.inl rfl, rfl⟩, hsave⟩
  · obtain ⟨hp, hsv, hi⟩ := exec_background_keeps_sequence hfg h
    exact .inl ⟨by rwa [hp], hsv.trans hsave, hi.trans hie⟩

/-- R138: only `MS_RESTORE` ends the critical section, and nothing inside it writes `SAVE`. -/
theorem exec_keeps_inCritical {i : Instr} {s t : State} (hi : i ≠ .msRestore) (hs : InCritical s)
    (h : exec i s = .next t) : InCritical t ∧ t.save = s.save := by
  obtain ⟨hphase, hie⟩ := hs
  by_cases hfg : i.agent = .fg
  · obtain hp | hp := hphase
    · obtain rfl := eq_of_activationOp (j := .msOvf) (by rw [hp]; rfl) hfg h
      obtain ⟨-, -, -, rfl⟩ := execMsOvf_next h
      exact ⟨⟨.inr rfl, hie⟩, rfl⟩
    · exact absurd (eq_of_activationOp (by rw [hp]; rfl) hfg h) hi
  · obtain ⟨hp, hsv, hiet⟩ := exec_background_keeps_sequence hfg h
    exact ⟨⟨by rwa [hp], hiet.trans hie⟩, hsv⟩

theorem exec_keeps_afterCritical {b : Bool} {i : Instr} {s t : State} (hi : i ≠ .msScale) (hs : AfterCritical b s)
    (h : exec i s = .next t) : AfterCritical b t := by
  obtain ⟨hphase, hie⟩ := hs
  by_cases hfg : i.agent = .fg
  · exact absurd (eq_of_activationOp (by rw [hphase]; rfl) hfg h) hi
  · obtain ⟨hp, -, hiet⟩ := exec_background_keeps_sequence hfg h
    exact ⟨hp.trans hphase, hiet.trans hie⟩

theorem exec_keeps_beforeRestore {b : Bool} {i : Instr} {s t : State} (hi : i ≠ .msRestore) (hs : BeforeRestore b s)
    (h : exec i s = .next t) : BeforeRestore b t := by
  obtain hbefore | ⟨hin, hsave⟩ := hs
  · exact exec_of_beforeCritical hbefore h
  · obtain ⟨hin, hsv⟩ := exec_keeps_inCritical hi hin h
    exact .inr ⟨hin, hsv.trans hsave⟩

theorem BeforeRestore.save {b : Bool} {s : State} (hs : BeforeRestore b s) : s.save = some b := by
  obtain hbefore | ⟨-, hsave⟩ := hs
  · exact hbefore.save
  · exact hsave

theorem afterCritical_msRestore {b : Bool} {s t : State} (hs : BeforeRestore b s)
    (h : exec .msRestore s = .next t) : AfterCritical b t := by
  obtain ⟨-, -, -, saved, hsaved, rfl⟩ := execMsRestore_next h
  exact ⟨rfl, Option.some.inj (hsaved.symm.trans hs.save)⟩

/-- R136: until `MS_SCALE`, an activation has its `b` in `SAVE`, or back in `IE`. -/
theorem exec_keeps_beforeRestore_or_afterCritical {b : Bool} {i : Instr} {s t : State} (hi : i ≠ .msScale)
    (hs : BeforeRestore b s ∨ AfterCritical b s) (h : exec i s = .next t) :
    BeforeRestore b t ∨ AfterCritical b t := by
  obtain hbefore | hafter := hs
  · by_cases hrestore : i = .msRestore
    · subst hrestore
      exact .inr (afterCritical_msRestore hbefore h)
    · exact .inl (exec_keeps_beforeRestore hrestore hbefore h)
  · exact .inr (exec_keeps_afterCritical hi hafter h)

theorem BeforeRestore.phase_ne_ms6 {b : Bool} {s : State} (hs : BeforeRestore b s) : s.phase ≠ .ms6 := by
  obtain ⟨hp, -, -⟩ | ⟨⟨hp, -⟩, -⟩ := hs <;> obtain hp | hp := hp <;> simp [hp]

/-- A run that starts with `MS_SAVE` and ends with one operation, taken apart. -/
theorem execAll_msSave_append_singleton_next {is : List Instr} {i : Instr} {s t : State}
    (h : execAll (.msSave :: is ++ [i]) s = .next t) :
    ∃ u v, BeforeRestore s.ie u ∧ execAll is u = .next v ∧ exec i v = .next t := by
  obtain ⟨v, hv, hlast⟩ := execAll_append_next h
  obtain ⟨u, hu, hv⟩ := execAll_cons_next hv
  obtain ⟨w, hw, hnil⟩ := execAll_cons_next hlast
  cases hnil
  exact ⟨u, v, .inl (beforeCritical_msSave hu), hv, hw⟩

/-- Settles O50: `MS_RESTORE` writes the saved value back, no step before `MS_SCALE` changes it after that, and
`MS_SCALE` does not write `IE`. -/
theorem microsRestoresTheInterruptEnable : Obligations.MicrosRestoresTheInterruptEnable := by
  intro s t is
  refine ⟨fun his hrun => ?_, fun his hrun => ?_⟩
  · obtain ⟨u, v, hu, hmid, hlast⟩ := execAll_msSave_append_singleton_next hrun
    have hv : BeforeRestore s.ie v :=
      execAll_keeps (fun i hi _ _ => exec_keeps_beforeRestore fun heq => his (heq ▸ hi)) hu hmid
    exact (afterCritical_msRestore hv hlast).ie
  · obtain ⟨u, v, hu, hmid, hlast⟩ := execAll_msSave_append_singleton_next hrun
    have hv : BeforeRestore s.ie v ∨ AfterCritical s.ie v :=
      execAll_keeps (fun i hi _ _ => exec_keeps_beforeRestore_or_afterCritical fun heq => his (heq ▸ hi))
        (.inl hu) hmid
    obtain ⟨-, hms6, -, _, _, -, -, rfl⟩ := execMsScale_next hlast
    exact (hv.resolve_left fun hbefore => hbefore.phase_ne_ms6 hms6).ie

end Sys2Proof.Machine
end

section
/-!
PROOFS. The statements of spec/42_converter.md: the step that returns the time (R170), the arithmetic of the combine
and the scale (R171 to R173), and how the result rises and wraps (R179, R180).
-/
namespace Sys2Proof.Machine

/-! ### The converter as numbers (R171 to R173) -/

theorem toNat_zext32 (raw : U8) : (zext32 raw).toNat = raw.toNat := by
  have hraw := raw.isLt
  simp only [zext32, BitVec.toNat_setWidth]
  omega

theorem toNat_combine (x : U32) (raw : U8) : (combine x raw).toNat = (x.toNat * 256 + raw.toNat) % 2 ^ 32 := by
  simp [combine, toNat_zext32, BitVec.toNat_add, Nat.shiftLeft_eq]

theorem toNat_convert (x : U32) (raw : U8) (k : Nat) :
    (convert x raw k).toNat = (combine x raw).toNat * k % 2 ^ 32 := by
  simp [convert, BitVec.toNat_mul]

/-- R173: the reductions on the way change nothing. -/
theorem toNat_convert_unbounded (x : U32) (raw : U8) (k : Nat) :
    (convert x raw k).toNat = (x.toNat * 256 + raw.toNat) * k % 2 ^ 32 := by
  rw [toNat_convert, toNat_combine, Nat.mod_mul_mod]

/-- R171: the shift leaves the low byte clear, so adding `T` puts it there. -/
theorem combine_eq_append (x : U32) (raw : U8) : combine x raw = x.extractLsb' 0 24 ++ raw := by
  have hraw := raw.isLt
  apply BitVec.eq_of_toNat_eq
  rw [toNat_combine, BitVec.toNat_append, ← Nat.shiftLeft_add_eq_or_of_lt hraw, BitVec.extractLsb'_toNat,
    Nat.shiftLeft_eq]
  omega

/-- Settles O22: `combine_eq_append` gives the bits, `toNat_combine`, `toNat_convert` and
`toNat_convert_unbounded` the numbers. -/
theorem converterArithmetic : Obligations.ConverterArithmetic := fun x raw k =>
  ⟨(toNat_combine x raw).trans (Nat.mod_add_mod (x.toNat * 256) (2 ^ 32) raw.toNat).symm, combine_eq_append x raw,
    toNat_convert x raw k, toNat_convert_unbounded x raw k⟩

/-! ### One tick more (R180) -/

theorem combine_succ (x : U32) {raw : U8} (h : raw.toNat < 255) : combine x (raw + 1) = combine x raw + 1 := by
  have hnext : (raw + 1).toNat = raw.toNat + 1 := BitVec.toNat_add_of_lt (y := 1#8) (Nat.add_lt_add_right h 1)
  apply BitVec.eq_of_toNat_eq
  rw [toNat_combine, hnext, BitVec.toNat_add, toNat_combine, ← Nat.add_assoc]
  exact (Nat.mod_add_mod _ (2 ^ 32) 1).symm

/-- At the boundary of a period `T` returns to 0 and `X` takes the carry, also where `X` wraps. -/
theorem combine_next_period (x : U32) : combine (x + 1) 0#8 = combine x 255#8 + 1 := by
  apply BitVec.eq_of_toNat_eq
  calc (combine (x + 1) 0#8).toNat = (x.toNat + 1) % 2 ^ 32 * 256 % 2 ^ 32 := by
        simp [toNat_combine, BitVec.toNat_add]
    _ = (x.toNat * 256 + 255 + 1) % 2 ^ 32 := by rw [Nat.mod_mul_mod, Nat.succ_mul]
    _ = (combine x 255#8 + 1).toNat := by
        rw [BitVec.toNat_add, toNat_combine]; exact (Nat.mod_add_mod _ (2 ^ 32) 1).symm

theorem convert_of_combine_succ {x y : U32} {raw next : U8} (k : Nat) (h : combine y next = combine x raw + 1) :
    convert y next k = convert x raw k + BitVec.ofNat 32 k := by
  rw [convert, convert, h, BitVec.add_mul]
  exact congrArg (combine x raw * BitVec.ofNat 32 k + ·) (BitVec.one_mul _)

/-- Settles O23: the tick value rises by 1 in both cases, and the scale distributes over the sum. -/
theorem resultRisesByKPerTick : Obligations.ResultRisesByKPerTick := fun x _ k =>
  ⟨fun h => convert_of_combine_succ k (combine_succ x h), convert_of_combine_succ k (combine_next_period x)⟩

/-! ### Where the result wraps first (R179) -/

/-- Below a tick value whose product exceeds 2^32 by less than the factor, the scale loses nothing. -/
theorem toNat_convert_of_lt {x : U32} {raw : U8} {k c : Nat} (hc : c * k < 2 ^ 32 + k)
    (h : (combine x raw).toNat < c) : (convert x raw k).toNat = (combine x raw).toNat * k := by
  have hle : ((combine x raw).toNat + 1) * k ≤ c * k := Nat.mul_le_mul_right k h
  rw [toNat_convert, Nat.mod_eq_of_lt]
  rw [Nat.succ_mul] at hle
  omega

/-- Settles O24: each row is evaluated, and its product exceeds 2^32 by less than its factor, so
`toNat_convert_of_lt` covers every smaller tick value. -/
theorem resultWrapsFirstWhereTheTableSays : Obligations.ResultWrapsFirstWhereTheTableSays := by
  intro k c x raw hrow
  have hrows : (combine x raw).toNat = c ∧ (convert x raw k).toNat + 2 ^ 32 = c * k ∧ c * k < 2 ^ 32 + k := by
    simp only [List.mem_cons, List.not_mem_nil, or_false, Prod.mk.injEq] at hrow
    obtain ⟨rfl, rfl, rfl, rfl⟩ | ⟨rfl, rfl, rfl, rfl⟩ | ⟨rfl, rfl, rfl, rfl⟩ | ⟨rfl, rfl, rfl, rfl⟩ := hrow <;>
      decide
  obtain ⟨hcombine, hlost, hbelow⟩ := hrows
  exact ⟨hcombine, hlost, fun _ _ => toNat_convert_of_lt hbelow⟩

/-! ### The step that returns the time (R170) -/

theorem execMsScale_run {s : State} {x : U32} {raw : U8} (hm : s.cfg.microsEnabled = true) (hp : s.phase = .ms6)
    (hd : s.dispatchComesFirst = false) (hx : s.x = some x) (ht : s.t = some raw) :
    exec .msScale s = .next
      (({ s with result := some (convert x raw (configK s.cfg)), t := none, x := none } : State).goto .idle) := by
  unfold exec execMsScale
  rw [fgStep_run _ (fun _ => hm) (List.mem_singleton.2 hp) hd, hx, ht, withLocal_some, withLocal_some]

theorem LocalsInv.x_t_of_ms6 {s : State} (h : LocalsInv s) (hp : s.phase = .ms6) : s.x.isSome ∧ s.t.isSome := by
  simp only [LocalsInv, hp] at h
  obtain ⟨-, ht, hx⟩ := h
  exact ⟨hx, ht⟩

/-- Settles O21: the effect is `execMsScale_run`, `execMsScale_next` says that the phase is needed, and `X` and `T`
hold values by the row of `MS6` in the invariant of the locals. -/
theorem msScaleReturnsTheTime : Obligations.MsScaleReturnsTheTime := by
  refine ⟨⟨decodeWord_encode .msScale, rfl⟩, fun s =>
    ⟨fun _ _ hm hp hd hx ht => execMsScale_run hm hp hd hx ht, fun hp t ht => ?_,
      fun hinv => hinv.locals.x_t_of_ms6⟩⟩
  obtain ⟨-, hms6, -⟩ := execMsScale_next ht
  exact hp hms6

end Sys2Proof.Machine
end

section
/-!
PROOFS. The statements of spec/43_init_env.md: the divider (R207), the four steps of `init` (R200 to R203), the host's
critical section (R210, R211) and a second `init` (R205).
-/
namespace Sys2Proof.Machine

/-! ### The divider of a frequency (R207) -/

theorem dividerFor_of_ge {freqHz : Nat} (h : 4800000 ≤ freqHz) : dividerFor freqHz = .d64 := if_pos h

theorem dividerFor_of_lt {freqHz : Nat} (h : freqHz < 4800000) : dividerFor freqHz = .d8 :=
  if_neg (Nat.not_le.2 h)

/-- Settles O4: a configuration's divider is that of its frequency, which is on one side of the threshold. -/
theorem dividerFollowsTheThreshold : Obligations.DividerFollowsTheThreshold :=
  fun _ => ⟨dividerFor_of_ge, dividerFor_of_lt⟩

/-! ### The effect of a step whose guard holds (R200 to R203, R210, R211) -/

/-- R242: what a second `init` adds to `FAULTS`, in one record. -/
theorem State.raiseIf_initTwice_eq (s : State) (b : Bool) :
    s.raiseIf b .initTwice =
      { s with faults := if b then { s.faults with initTwice := true } else s.faults } := by
  cases b <;> rfl

/-- R204: where the overflow interrupt does not exist, no dispatch of it comes first. -/
theorem State.dispatchComesFirst_of_disabled {s : State} (h : s.cfg.microsEnabled = false) :
    s.dispatchComesFirst = false := by
  simp [State.dispatchComesFirst, State.dispatchable, h]

section
variable {s : State} (hm : s.cfg.microsEnabled = true) (hd : s.dispatchComesFirst = false)
include hm hd

theorem execInDiv_run (hp : s.phase = .boot ∨ s.phase = .idle) :
    exec .inDiv s = .next
      { s with div := configDiv s.cfg, phase := .init2,
               faults := if s.initDone then { s.faults with initTwice := true } else s.faults } := by
  unfold exec execInDiv
  rw [fgStep_run _ (fun _ => hm) (by simpa using hp) hd, State.raiseIf_initTwice_eq]
  rfl

theorem execInOie_run (hp : s.phase = .init2) :
    exec .inOie s = .next { s with oie := true, phase := .init3 } := by
  unfold exec execInOie
  exact fgStep_run _ (fun _ => hm) (List.mem_singleton.2 hp) hd

theorem execInZero_run (hp : s.phase = .init3) :
    exec .inZero s = .next { s with tcnt := 0#8, ticks := 0, lost := 0, phase := .init4 } := by
  unfold exec execInZero
  exact fgStep_run _ (fun _ => hm) (List.mem_singleton.2 hp) hd

end

/-- R203, in both configurations: `INIT_TWICE` is raised only in the disabled one. -/
theorem execInSei_run {s : State} (hp : s.phase ∈ inSeiPhases s.cfg.microsEnabled)
    (hd : s.dispatchComesFirst = false) :
    exec .inSei s = .next
      { s with ie := true, initDone := true, phase := .idle,
               faults := if !s.cfg.microsEnabled && s.initDone then { s.faults with initTwice := true }
                 else s.faults } := by
  unfold exec execInSei
  rw [fgStep_run _ (fun h => absurd h Bool.false_ne_true) hp hd, State.raiseIf_initTwice_eq]
  rfl

theorem execInSei_run_enabled {s : State} (hm : s.cfg.microsEnabled = true) (hd : s.dispatchComesFirst = false)
    (hp : s.phase = .init4) :
    exec .inSei s = .next { s with ie := true, initDone := true, phase := .idle } := by
  rw [execInSei_run (by simp [inSeiPhases, hm, hp]) hd]
  simp [hm]

theorem execInSei_run_disabled {s : State} (hm : s.cfg.microsEnabled = false)
    (hp : s.phase = .boot ∨ s.phase = .idle) :
    exec .inSei s = .next
      { s with ie := true, initDone := true, phase := .idle,
               faults := if s.initDone then { s.faults with initTwice := true } else s.faults } := by
  rw [execInSei_run (by simp [inSeiPhases, hm, hp]) (State.dispatchComesFirst_of_disabled hm)]
  simp [hm]

theorem execEnvCli_run {s : State} (hp : s.phase = .boot ∨ s.phase = .idle) (hd : s.dispatchComesFirst = false) :
    exec .envCli s = .next (s.setIe false) := by
  unfold exec execEnvCli
  exact fgStep_run _ (fun h => absurd h Bool.false_ne_true) (by simpa using hp) hd

theorem execEnvSei_run {s : State} (hp : s.phase = .boot ∨ s.phase = .idle) (hd : s.dispatchComesFirst = false) :
    exec .envSei s = .next (s.setIe true) := by
  unfold exec execEnvSei
  exact fgStep_run _ (fun h => absurd h Bool.false_ne_true) (by simpa using hp) hd

/-! ### The steps of `init` (R200 to R203) -/

/-- Settles O25: the effect is `execInDiv_run`, and `execInDiv_next` says that the configuration and the phase are
needed. -/
theorem inDivSelectsTheDivider : Obligations.InDivSelectsTheDivider := by
  refine ⟨⟨decodeWord_encode .inDiv, rfl⟩, fun s => ⟨fun hm hp hd => execInDiv_run hm hd hp, fun hno t ht => ?_⟩⟩
  obtain ⟨hm, hp, -⟩ := execInDiv_next ht
  obtain hdisabled | ⟨hboot, hidle⟩ := hno
  · simp [hm] at hdisabled
  · exact hp.elim hboot hidle

/-- Settles O26: the effect is `execInOie_run`, and `execInOie_next` says that the phase is needed. -/
theorem inOieEnablesTheOverflowInterrupt : Obligations.InOieEnablesTheOverflowInterrupt := by
  refine ⟨⟨decodeWord_encode .inOie, rfl⟩, fun s => ⟨fun hm hp hd => execInOie_run hm hd hp, fun hp t ht => ?_⟩⟩
  obtain ⟨-, hinit2, -⟩ := execInOie_next ht
  exact hp hinit2

/-- Settles O27: the effect is `execInZero_run`, and `execInZero_next` says that the phase is needed. -/
theorem inZeroZeroesTheRawCounter : Obligations.InZeroZeroesTheRawCounter := by
  refine ⟨⟨decodeWord_encode .inZero, rfl⟩, fun s => ⟨fun hm hp hd => execInZero_run hm hd hp, fun hp t ht => ?_⟩⟩
  obtain ⟨-, hinit3, -⟩ := execInZero_next ht
  exact hp hinit3

/-- Settles O28: the effects are those of `execInSei_run` in the two configurations, and `execInSei_next` says that a
phase of the configuration's list is needed. -/
theorem inSeiEnablesInterruptsLast : Obligations.InSeiEnablesInterruptsLast := by
  refine ⟨⟨decodeWord_encode .inSei, rfl⟩, fun s =>
    ⟨fun hm hp hd => execInSei_run_enabled hm hd hp, execInSei_run_disabled, fun hm hp t ht => ?_,
      fun hm hboot hidle t ht => ?_⟩⟩
  · obtain ⟨hmem, -⟩ := execInSei_next ht
    simp [inSeiPhases, hm, hp] at hmem
  · obtain ⟨hmem, -⟩ := execInSei_next ht
    simp [inSeiPhases, hm, hboot, hidle] at hmem

/-! ### The host's critical section (R210, R211) -/

/-- Settles O29: the effect is `execEnvCli_run`, and `execEnvCli_next` says that the phase is needed. -/
theorem envCliOpensACriticalSection : Obligations.EnvCliOpensACriticalSection := by
  refine ⟨⟨decodeWord_encode .envCli, rfl⟩, fun s => ⟨execEnvCli_run, fun hboot hidle t ht => ?_⟩⟩
  obtain ⟨hp, -⟩ := execEnvCli_next ht
  exact hp.elim hboot hidle

/-- Settles O30: the effect is `execEnvSei_run`, and `execEnvSei_next` says that the phase is needed. -/
theorem envSeiClosesACriticalSection : Obligations.EnvSeiClosesACriticalSection := by
  refine ⟨⟨decodeWord_encode .envSei, rfl⟩, fun s => ⟨execEnvSei_run, fun hboot hidle t ht => ?_⟩⟩
  obtain ⟨hp, -⟩ := execEnvSei_next ht
  exact hp.elim hboot hidle

/-! ### A second `init` (R205) -/

/-- R236: each of three conditions keeps a prompt dispatch away. The steps of `init` before `IN_SEI` write none of the
three. -/
theorem State.dispatchComesFirst_of_held_back {s : State}
    (h : s.pend = false ∨ s.cfg.promptDispatch = false ∨ s.ie = false) : s.dispatchComesFirst = false := by
  obtain hpend | hprompt | hie := h
  · exact State.dispatchComesFirst_of_pend hpend
  · exact State.dispatchComesFirst_of_prompt hprompt
  · exact State.dispatchComesFirst_of_ie hie

/-- R200 to R203 in their order, from either phase and whether or not `init` has completed before. -/
theorem execAll_init {s : State} (hm : s.cfg.microsEnabled = true) (hp : s.phase = .boot ∨ s.phase = .idle)
    (hheld : s.pend = false ∨ s.cfg.promptDispatch = false ∨ s.ie = false) :
    execAll (Pseudo.init.expand true) s = .next
      { s with div := configDiv s.cfg, oie := true, tcnt := 0#8, ticks := 0, lost := 0, ie := true,
               initDone := true, phase := .idle,
               faults := if s.initDone then { s.faults with initTwice := true } else s.faults } :=
  calc execAll [.inDiv, .inOie, .inZero, .inSei] s
    _ = execAll [.inOie, .inZero, .inSei] _ :=
      execAll_cons_of_next _ (execInDiv_run hm (State.dispatchComesFirst_of_held_back hheld) hp)
    _ = execAll [.inZero, .inSei] _ :=
      execAll_cons_of_next _ (execInOie_run hm (State.dispatchComesFirst_of_held_back hheld) rfl)
    _ = execAll [.inSei] _ :=
      execAll_cons_of_next _ (execInZero_run hm (State.dispatchComesFirst_of_held_back hheld) rfl)
    _ = execAll [] _ :=
      execAll_cons_of_next _ (execInSei_run_enabled hm (State.dispatchComesFirst_of_held_back hheld) rfl)

/-- Settles O31: `execAll_init` from `IDLE`, where `INIT_DONE` is 1 already and the run ends where it began. -/
theorem secondInitKeepsTheOverflowCounter : Obligations.SecondInitKeepsTheOverflowCounter := by
  intro s hm hp hdone hheld
  rw [execAll_init hm (.inr hp) hheld]
  simp [hp, hdone]

end Sys2Proof.Machine
end

section
/-!
PROOFS. The statements of spec/60_exceptions.md: the dispatch condition of the overflow interrupt (R232), an overflow
that is masked (R238), and the two model faults (R241, R242).
-/
namespace Sys2Proof.Machine

/-! ### The dispatch condition (R232) -/

theorem exists_execOvfIrq_next_iff (s : State) : (∃ t, exec .ovfIrq s = .next t) ↔ s.dispatchable = true := by
  refine ⟨fun ⟨t, ht⟩ => ?_, fun hdispatch => ⟨_, execOvfIrq_run hdispatch⟩⟩
  obtain ⟨hdispatch, -⟩ := execOvfIrq_next ht
  exact hdispatch

/-- Settles O14: `OVF_IRQ` has a step exactly where the overflow is dispatchable, and R232's four conditions are what
that means; none of them is about the phase. -/
theorem dispatchNeedsItsFourConditions : Obligations.DispatchNeedsItsFourConditions := fun s => by
  rw [exists_execOvfIrq_next_iff, State.dispatchable_iff, and_comm (a := s.pend = true)]

/-! ### A pending overflow (R238) -/

/-- A wrap can only set `PEND`, and no foreground step writes it. -/
theorem exec_keeps_pending {i : Instr} {s t : State} (hi : i ≠ .ovfIrq) (h : exec i s = .next t)
    (hpend : s.pend = true) : t.pend = true := by
  obtain rfl | hirq | hfg := Instr.tick_or_ovfIrq_or_foreground i
  · obtain ⟨-, -, rfl⟩ := execTick_next h
    simp [hpend]
  · exact absurd hirq hi
  · obtain ⟨-, hkept, -⟩ := exec_foreground_keeps_counts hfg h
    exact hkept.trans hpend

/-- A dispatch counts the overflow that it clears. -/
theorem execOvfIrq_counts {s t : State} (h : exec .ovfIrq s = .next t) : t.pend = false ∧ t.ovf = s.ovf + 1 := by
  obtain ⟨-, rfl⟩ := execOvfIrq_next h
  exact ⟨rfl, State.ovf_handlerBody _⟩

/-- A mask keeps the handler out. -/
theorem ne_ovfIrq_of_masked {i : Instr} {s t : State} (hmask : s.ie = false ∨ s.oie = false)
    (h : exec i s = .next t) : i ≠ .ovfIrq := by
  rintro rfl
  obtain ⟨hdispatch, -⟩ := execOvfIrq_next h
  obtain ⟨-, hie, -, hoie⟩ := (State.dispatchable_iff s).1 hdispatch
  simp [hie, hoie] at hmask

/-- Settles O40: every operation but `OVF_IRQ` keeps `PEND` and `OVF`, a mask rules `OVF_IRQ` out, and where
`OVF_IRQ` has its step it counts. -/
theorem onlyDispatchClearsPending : Obligations.OnlyDispatchClearsPending := by
  refine ⟨fun i s t h hpend => ⟨fun hcleared => ?_, fun hmask => ?_⟩, fun s hm hpend hie hoie => ?_⟩
  · have hi : i = .ovfIrq := Decidable.byContradiction fun hi =>
      Bool.false_ne_true (hcleared.symm.trans (exec_keeps_pending hi h hpend))
    subst hi
    exact ⟨rfl, (execOvfIrq_counts h).2⟩
  · have hi := ne_ovfIrq_of_masked hmask h
    exact ⟨exec_keeps_pending hi h hpend, exec_keeps_ovf hi h⟩
  · have hrun := execOvfIrq_run ((State.dispatchable_iff s).2 ⟨hm, hie, hpend, hoie⟩)
    exact ⟨_, hrun, execOvfIrq_counts hrun⟩

/-! ### The model faults (R240 to R242) -/

/-- R240: a raise adds its name to `FAULTS`, and nothing else. -/
theorem FaultSet.has_add (f : FaultSet) (raised m : ModelFault) :
    (f.add raised).has m = (f.has m || decide (m = raised)) := by
  cases raised <;> cases m <;> simp [FaultSet.add, FaultSet.has]

/-- The form that `State.raiseIf_faults` gives a raise under a condition. -/
theorem FaultSet.has_ite_add (f : FaultSet) (c : Prop) [Decidable c] (raised m : ModelFault) :
    (if c then f.add raised else f).has m = (f.has m || (decide c && decide (m = raised))) := by
  by_cases hc : c <;> simp [hc, FaultSet.has_add]

/-- Three operations can raise a model fault; the others leave `FAULTS` alone. -/
theorem exec_keeps_faults {i : Instr} {s t : State} (hmsSave : i ≠ .msSave) (hinDiv : i ≠ .inDiv)
    (hinSei : i ≠ .inSei) (h : exec i s = .next t) : t.faults = s.faults := by
  cases i with
  | tick => obtain ⟨-, -, rfl⟩ := execTick_next h; exact State.tickOnce_faults s
  | ovfIrq => obtain ⟨-, rfl⟩ := execOvfIrq_next h; rfl
  | msRaw => obtain ⟨-, -, -, rfl⟩ := execMsRaw_next h; rfl
  | msCli => obtain ⟨-, -, -, rfl⟩ := execMsCli_next h; rfl
  | msOvf => obtain ⟨-, -, -, rfl⟩ := execMsOvf_next h; rfl
  | msRestore => obtain ⟨-, -, -, _, -, rfl⟩ := execMsRestore_next h; rfl
  | msScale => obtain ⟨-, -, -, _, _, -, -, rfl⟩ := execMsScale_next h; rfl
  | inOie => obtain ⟨-, -, -, rfl⟩ := execInOie_next h; rfl
  | inZero => obtain ⟨-, -, -, rfl⟩ := execInZero_next h; rfl
  | envCli => obtain ⟨-, -, rfl⟩ := execEnvCli_next h; rfl
  | envSei => obtain ⟨-, -, rfl⟩ := execEnvSei_next h; rfl
  | msSave => exact absurd rfl hmsSave
  | inDiv => exact absurd rfl hinDiv
  | inSei => exact absurd rfl hinSei

/-- Settles O39: each of the three operations that raise has its one name and its one condition, read from its effect
by `FaultSet.has_ite_add`; for the others it is `exec_keeps_faults`. -/
theorem modelFaultsAreStickyAndRaisedByTheirSteps : Obligations.ModelFaultsAreStickyAndRaisedByTheirSteps := by
  intro i s t h
  cases i with
  | msSave =>
    obtain ⟨-, -, -, rfl⟩ := execMsSave_next h
    simp [FaultSet.has_ite_add]
  | inDiv =>
    obtain ⟨-, -, -, rfl⟩ := execInDiv_next h
    simp [FaultSet.has_ite_add]
  | inSei =>
    obtain ⟨-, -, rfl⟩ := execInSei_next h
    simp [FaultSet.has_ite_add, Bool.and_comm]
  | tick | ovfIrq | msRaw | msCli | msOvf | msRestore | msScale | inOie | inZero | envCli | envSei =>
    rw [exec_keeps_faults (by decide) (by decide) (by decide) h]
    simp

end Sys2Proof.Machine
end

section
/-!
PROOFS. The statements of spec/70_reset_and_hazards.md: the state after reset (R270), and that neither the timer nor
the interrupt unit has a step in it (R272).
-/
namespace Sys2Proof.Machine

/-! ### The state after reset (R270) -/

/-- R21: the memory after reset lists no byte, so the four bytes of `OVF` read 0. -/
@[simp] theorem State.ovf_resetWith (c : Config) (draw : U8) : (State.resetWith c draw).ovf = 0 :=
  Memory.readOvf_nil

/-- R39: after reset `FAULTS` is empty. -/
@[simp] theorem State.has_faults_resetWith (c : Config) (draw : U8) (m : ModelFault) :
    (State.resetWith c draw).faults.has m = false := by
  cases m <;> rfl

/-- Settles O5: every row but `OVF` and `FAULTS` is a field that `State.resetWith` sets; those two are read from the
empty memory and the two clear bits. -/
theorem resetLeavesTheResetState : Obligations.ResetLeavesTheResetState := by
  intro c draw
  refine ⟨rfl, State.ovf_resetWith c draw, rfl, rfl, rfl, rfl, rfl, rfl, rfl, rfl, rfl, rfl, rfl, ?_, ?_, rfl, rfl⟩
  · exact State.has_faults_resetWith c draw .useBeforeInit
  · exact State.has_faults_resetWith c draw .initTwice

/-! ### What runs by itself after reset (R272) -/

/-- Settles O6: R270 has `DIV = STOP`, which `TICK` excludes (R100), and `IE = 0`, which masks `OVF_IRQ` (R103). -/
theorem nothingRunsByItselfAfterReset : Obligations.NothingRunsByItselfAfterReset := by
  intro c draw t
  obtain ⟨-, -, -, -, -, hie, hdiv, -⟩ := resetLeavesTheResetState c draw
  constructor
  · intro htick
    obtain ⟨-, hrunning, -⟩ := execTick_next htick
    exact hrunning hdiv
  · intro hirq
    exact ne_ovfIrq_of_masked (.inl hie) hirq rfl

end Sys2Proof.Machine
end

section
/-!
PROOFS. The statements of spec/10_state.md: the writes of the access matrix (R42) and the phase table (R33), with what
prompt dispatch takes from it (R236) and the configuration, which no step writes (R273).
-/
namespace Sys2Proof.Machine

/-! ### The writes of the access matrix (R42) -/

/-- Settles O37: the effect of each operation, read field by field. -/
theorem operationsWriteOnlyTheirRow : Obligations.OperationsWriteOnlyTheirRow := by
  intro i s t h
  cases i with
  | tick => obtain ⟨-, -, rfl⟩ := execTick_next h; simp
  | ovfIrq => obtain ⟨-, rfl⟩ := execOvfIrq_next h; simp
  | msSave => obtain ⟨-, -, -, rfl⟩ := execMsSave_next h; simp [State.ovf]
  | msRaw => obtain ⟨-, -, -, rfl⟩ := execMsRaw_next h; simp [State.ovf]
  | msCli => obtain ⟨-, -, -, rfl⟩ := execMsCli_next h; simp
  | msOvf => obtain ⟨-, -, -, rfl⟩ := execMsOvf_next h; simp [State.ovf]
  | msRestore => obtain ⟨-, -, -, _, -, rfl⟩ := execMsRestore_next h; simp [State.ovf]
  | msScale => obtain ⟨-, -, -, _, _, -, -, rfl⟩ := execMsScale_next h; simp [State.ovf]
  | inDiv => obtain ⟨-, -, -, rfl⟩ := execInDiv_next h; simp [State.ovf]
  | inOie => obtain ⟨-, -, -, rfl⟩ := execInOie_next h; simp
  | inZero => obtain ⟨-, -, -, rfl⟩ := execInZero_next h; simp [State.ovf]
  | inSei => obtain ⟨-, -, rfl⟩ := execInSei_next h; simp [State.ovf]
  | envCli => obtain ⟨-, -, rfl⟩ := execEnvCli_next h; simp
  | envSei => obtain ⟨-, -, rfl⟩ := execEnvSei_next h; simp

/-- R7; the queue of offers and the count of free choices are the model's own. -/
theorem exec_keeps_own {i : Instr} {s t : State} (h : exec i s = .next t) :
    t.cfg = s.cfg ∧ t.offers = s.offers ∧ t.turn = s.turn := by
  obtain ⟨-, -, -, -, -, -, -, -, -, -, -, -, -, -, hown⟩ := operationsWriteOnlyTheirRow i s t h
  exact hown

theorem exec_keeps_cfg {i : Instr} {s t : State} (h : exec i s = .next t) : t.cfg = s.cfg := (exec_keeps_own h).1

theorem execAll_keeps_cfg {is : List Instr} {s t : State} (h : execAll is s = .next t) : t.cfg = s.cfg :=
  execAll_keeps (P := fun u => u.cfg = s.cfg) (fun _ _ _ _ hu hstep => (exec_keeps_cfg hstep).trans hu) rfl h

/-- Settles O38: no operation changes the configuration, so no step does. -/
theorem configurationIsFixed : Obligations.ConfigurationIsFixed := fun s _ h =>
  step_keeps (P := fun u => u.cfg = s.cfg) (fun _ _ _ hu hstep => (exec_keeps_cfg hstep).trans hu)
    (fun _ _ _ hu => hu) rfl h

/-! ### The foreground and the phase table (R33) -/

/-- R241: what `MS_SAVE` adds to `FAULTS` before `init` has completed, in one record. -/
theorem State.raiseIf_useBeforeInit_eq (s : State) (done : Bool) :
    s.raiseIf (!done) .useBeforeInit =
      { s with faults := if done then s.faults else { s.faults with useBeforeInit := true } } := by
  cases done <;> rfl

theorem execMsSave_run {s : State} (hm : s.cfg.microsEnabled = true) (hp : s.phase = .idle ∨ s.phase = .boot)
    (hd : s.dispatchComesFirst = false) :
    exec .msSave s = .next
      { s with save := some s.ie, phase := .ms2,
               faults := if s.initDone then s.faults else { s.faults with useBeforeInit := true } } := by
  have hout : s.phase.inActivation = false := by obtain hp | hp := hp <;> rw [hp] <;> rfl
  unfold exec execMsSave
  rw [hout, Bool.and_false, if_neg Bool.false_ne_true, fgStep_run _ (fun _ => hm) (by simpa using hp) hd,
    State.raiseIf_useBeforeInit_eq]
  rfl

/-- The locals that `MS_RESTORE` and `MS_SCALE` read hold values in their phases (R135, R170). -/
theorem LocalsInv.save_of_ms5 {s : State} (h : LocalsInv s) (hp : s.phase = .ms5) : ∃ b, s.save = some b := by
  simp only [LocalsInv, hp] at h
  exact Option.isSome_iff_exists.1 h.1

theorem LocalsInv.values_of_ms6 {s : State} (h : LocalsInv s) (hp : s.phase = .ms6) :
    ∃ x raw, s.x = some x ∧ s.t = some raw := by
  obtain ⟨hx, ht⟩ := h.x_t_of_ms6 hp
  obtain ⟨x, hx⟩ := Option.isSome_iff_exists.1 hx
  obtain ⟨raw, ht⟩ := Option.isSome_iff_exists.1 ht
  exact ⟨x, raw, hx, ht⟩

/-- R33, with `MICROS_ENABLED`: every row of the phase table is a step. -/
theorem exec_of_mem_phaseTable {i : Instr} {s : State} {p : Phase} (hm : s.cfg.microsEnabled = true)
    (hlocals : LocalsInv s) (hd : s.dispatchComesFirst = false) (hrow : (s.phase, i, p) ∈ phaseTable) :
    ∃ t, exec i s = .next t ∧ t.phase = p := by
  cases i with
  | tick | ovfIrq => simp [phaseTable] at hrow
  | msSave =>
    obtain ⟨hp, rfl⟩ | ⟨hp, rfl⟩ : s.phase = .boot ∧ p = .ms2 ∨ s.phase = .idle ∧ p = .ms2 := by
      simpa [phaseTable] using hrow
    · exact ⟨_, execMsSave_run hm (.inr hp) hd, rfl⟩
    · exact ⟨_, execMsSave_run hm (.inl hp) hd, rfl⟩
  | msRaw =>
    obtain ⟨hp, rfl⟩ : s.phase = .ms2 ∧ p = .ms3 := by simpa [phaseTable] using hrow
    exact ⟨_, execMsRaw_run hm hd hp, rfl⟩
  | msCli =>
    obtain ⟨hp, rfl⟩ : s.phase = .ms3 ∧ p = .ms4 := by simpa [phaseTable] using hrow
    exact ⟨_, execMsCli_run hm hd hp, rfl⟩
  | msOvf =>
    obtain ⟨hp, rfl⟩ : s.phase = .ms4 ∧ p = .ms5 := by simpa [phaseTable] using hrow
    exact ⟨_, execMsOvf_run hm hd hp, rfl⟩
  | msRestore =>
    obtain ⟨hp, rfl⟩ : s.phase = .ms5 ∧ p = .ms6 := by simpa [phaseTable] using hrow
    obtain ⟨b, hb⟩ := hlocals.save_of_ms5 hp
    exact ⟨_, execMsRestore_run hm hd hp hb, rfl⟩
  | msScale =>
    obtain ⟨hp, rfl⟩ : s.phase = .ms6 ∧ p = .idle := by simpa [phaseTable] using hrow
    obtain ⟨x, raw, hx, ht⟩ := hlocals.values_of_ms6 hp
    exact ⟨_, execMsScale_run hm hp hd hx ht, rfl⟩
  | inDiv =>
    obtain ⟨hp, rfl⟩ | ⟨hp, rfl⟩ : s.phase = .boot ∧ p = .init2 ∨ s.phase = .idle ∧ p = .init2 := by
      simpa [phaseTable] using hrow
    · exact ⟨_, execInDiv_run hm hd (.inl hp), rfl⟩
    · exact ⟨_, execInDiv_run hm hd (.inr hp), rfl⟩
  | inOie =>
    obtain ⟨hp, rfl⟩ : s.phase = .init2 ∧ p = .init3 := by simpa [phaseTable] using hrow
    exact ⟨_, execInOie_run hm hd hp, rfl⟩
  | inZero =>
    obtain ⟨hp, rfl⟩ : s.phase = .init3 ∧ p = .init4 := by simpa [phaseTable] using hrow
    exact ⟨_, execInZero_run hm hd hp, rfl⟩
  | inSei =>
    obtain ⟨hp, rfl⟩ : s.phase = .init4 ∧ p = .idle := by simpa [phaseTable] using hrow
    exact ⟨_, execInSei_run_enabled hm hd hp, rfl⟩
  | envCli =>
    obtain ⟨hp, rfl⟩ | ⟨hp, rfl⟩ : s.phase = .boot ∧ p = .boot ∨ s.phase = .idle ∧ p = .idle := by
      simpa [phaseTable] using hrow
    · exact ⟨_, execEnvCli_run (.inl hp) hd, hp⟩
    · exact ⟨_, execEnvCli_run (.inr hp) hd, hp⟩
  | envSei =>
    obtain ⟨hp, rfl⟩ | ⟨hp, rfl⟩ : s.phase = .boot ∧ p = .boot ∨ s.phase = .idle ∧ p = .idle := by
      simpa [phaseTable] using hrow
    · exact ⟨_, execEnvSei_run (.inl hp) hd, hp⟩
    · exact ⟨_, execEnvSei_run (.inr hp) hd, hp⟩

/-- R204: the same for `MICROS_ENABLED = false`, where no dispatch comes first. -/
theorem exec_of_mem_phaseTableDisabled {i : Instr} {s : State} {p : Phase} (hm : s.cfg.microsEnabled = false)
    (hrow : (s.phase, i, p) ∈ phaseTableDisabled) : ∃ t, exec i s = .next t ∧ t.phase = p := by
  have hd := State.dispatchComesFirst_of_disabled hm
  have hp : s.phase = .boot ∨ s.phase = .idle := by grind [phaseTableDisabled]
  have hi : i = .inSei ∧ p = .idle ∨ i = .envCli ∧ s.phase = p ∨ i = .envSei ∧ s.phase = p := by
    grind [phaseTableDisabled]
  obtain ⟨rfl, rfl⟩ | ⟨rfl, rfl⟩ | ⟨rfl, rfl⟩ := hi
  · exact ⟨_, execInSei_run_disabled hm hp, rfl⟩
  · exact ⟨_, execEnvCli_run hp hd, rfl⟩
  · exact ⟨_, execEnvSei_run hp hd, rfl⟩

/-- R33: every row of the phase table is a step, unless R236 puts the dispatch first. -/
theorem exec_of_mem_phaseRows {i : Instr} {s : State} {p : Phase} (hlocals : LocalsInv s)
    (hd : s.dispatchComesFirst = false) (hrow : (s.phase, i, p) ∈ phaseRows s.cfg) :
    ∃ t, exec i s = .next t ∧ t.phase = p := by
  unfold phaseRows at hrow
  split at hrow
  case isTrue hm => exact exec_of_mem_phaseTable hm hlocals hd hrow
  case isFalse hm => exact exec_of_mem_phaseTableDisabled (Bool.eq_false_iff.2 hm) hrow

theorem State.tickOnce_goto (s : State) (p : Phase) : (s.goto p).tickOnce = s.tickOnce.goto p := by
  simp only [State.tickOnce_eq]
  rfl

theorem execTick_goto (s : State) (p : Phase) :
    execTick (s.goto p) = mapNext (fun t => t.goto p) (execTick s) := by
  unfold execTick
  rw [State.goto_cfg, State.goto_div, State.tickOnce_goto]
  split
  · rfl
  · split <;> rfl

theorem execOvfIrq_goto (s : State) (p : Phase) :
    execOvfIrq (s.goto p) = mapNext (fun t => t.goto p) (execOvfIrq s) := by
  have hdispatch : (s.goto p).dispatchable = s.dispatchable := rfl
  unfold execOvfIrq
  rw [State.goto_cfg, hdispatch]
  split
  · rfl
  · split <;> rfl

/-- The guards of `TMR` and `IRQ` do not read the phase, and their effects carry it through. -/
theorem exec_background_goto {i : Instr} (s : State) (p : Phase) (hbg : i.agent ≠ .fg) :
    exec i (s.goto p) = mapNext (fun t => t.goto p) (exec i s) := by
  obtain rfl | rfl | hfg := Instr.tick_or_ovfIrq_or_foreground i
  · exact execTick_goto s p
  · exact execOvfIrq_goto s p
  · exact absurd hfg hbg

/-- Settles O34: the rows are `exec_foreground_mem_phaseRows` and `exec_of_mem_phaseRows`; the other agents carry
the phase through. -/
theorem foregroundFollowsThePhaseTable : Obligations.ForegroundFollowsThePhaseTable :=
  ⟨fun _ _ _ => exec_foreground_mem_phaseRows, fun _ _ _ => exec_of_mem_phaseRows,
    fun _ s p => exec_background_goto s p, fun _ _ _ hbg h => (exec_background_keeps_sequence hbg h).1⟩

/-! ### Prompt dispatch (R236) -/

/-- Every foreground step has `fgStep`'s guard. -/
theorem dispatchComesFirst_of_exec_foreground {i : Instr} {s t : State} (hfg : i.agent = .fg)
    (h : exec i s = .next t) : s.dispatchComesFirst = false := by
  cases i with
  | tick | ovfIrq => cases hfg
  | msSave => obtain ⟨-, -, hd, -⟩ := execMsSave_next h; exact hd
  | msRaw => obtain ⟨-, -, hd, -⟩ := execMsRaw_next h; exact hd
  | msCli => obtain ⟨-, -, hd, -⟩ := execMsCli_next h; exact hd
  | msOvf => obtain ⟨-, -, hd, -⟩ := execMsOvf_next h; exact hd
  | msRestore => obtain ⟨-, -, hd, -⟩ := execMsRestore_next h; exact hd
  | msScale => obtain ⟨-, -, hd, -⟩ := execMsScale_next h; exact hd
  | inDiv => obtain ⟨-, -, hd, -⟩ := execInDiv_next h; exact hd
  | inOie => obtain ⟨-, -, hd, -⟩ := execInOie_next h; exact hd
  | inZero => obtain ⟨-, -, hd, -⟩ := execInZero_next h; exact hd
  | inSei => obtain ⟨-, hd, -⟩ := execInSei_next h; exact hd
  | envCli => obtain ⟨-, hd, -⟩ := execEnvCli_next h; exact hd
  | envSei => obtain ⟨-, hd, -⟩ := execEnvSei_next h; exact hd

/-- Settles O36: with prompt dispatch the dispatch comes first, which every foreground step excludes; without it, no
dispatch does, and the rows of the phase table are steps. -/
theorem promptDispatchHoldsTheForegroundBack : Obligations.PromptDispatchHoldsTheForegroundBack := by
  intro s hie hoie hpend hm
  have hdispatch := (State.dispatchable_iff s).2 ⟨hm, hie, hpend, hoie⟩
  refine ⟨fun hprompt => ⟨fun i t hfg h => ?_, _, execOvfIrq_run hdispatch⟩, fun hprompt i p hlocals hrow => ?_⟩
  · have hfirst := (State.dispatchComesFirst_iff s).2 ⟨hprompt, hdispatch⟩
    exact Bool.false_ne_true ((dispatchComesFirst_of_exec_foreground hfg h).symm.trans hfirst)
  · obtain ⟨t, ht, -⟩ := exec_of_mem_phaseRows hlocals (State.dispatchComesFirst_of_prompt hprompt) hrow
    exact ⟨t, ht⟩

end Sys2Proof.Machine
end

section
/-!
PROOFS. The rest of spec/30_encoding.md: decoding after encoding and back (R81), what the step makes of an offer (R83
to R86), and a queue of offers as a run (R70).
-/
namespace Sys2Proof

/-! ### Decoding and encoding (R81) -/

/-- The word of an operation in the low half of a byte is read back. -/
theorem ofNat_encodeByte (i : Instr) : BitVec.ofNat 4 (encodeByte i).toNat = encode i := by
  cases i <;> rfl

theorem toNat_encodeByte_lt (i : Instr) : (encodeByte i).toNat < 16 := by
  cases i <;> decide

theorem decode_encodeByte (i : Instr) (rest : List (BitVec 8)) : decode (encodeByte i :: rest) = .ok (i, rest) := by
  simp only [decode, if_pos (toNat_encodeByte_lt i), ofNat_encodeByte, decodeWord_encode]

/-- R81: the words below the reserved ones are the codes of the operations. -/
theorem exists_encode_eq {w : OpWord} (h : w.toNat < 14) : ∃ i, encode i = w := by
  have hall : ∀ w : OpWord, w.toNat < 14 → ∃ i ∈ Instr.all, encode i = w := by decide
  obtain ⟨i, -, hi⟩ := hall w h
  exact ⟨i, hi⟩

theorem encode_of_decodeWord {w : OpWord} {i : Instr} (h : decodeWord w = .ok i) : encode i = w := by
  obtain hlt | hreserved := Nat.lt_or_ge w.toNat 14
  · obtain ⟨j, rfl⟩ := exists_encode_eq hlt
    rw [decodeWord_encode] at h
    cases h
    rfl
  · rw [decodeWord_reserved hreserved] at h
    cases h

/-- Settles O2: from an operation and back, from its byte, and from a word that decodes. -/
theorem decodeAndEncodeAgree : Obligations.DecodeAndEncodeAgree :=
  ⟨decodeWord_encode, decode_encodeByte, fun _ _ => encode_of_decodeWord⟩

end Sys2Proof

namespace Sys2Proof.Machine

/-! ### The step of an offer (R83 to R86) -/

/-- The first offer is run, on the state with it taken from the queue. -/
theorem step_of_offers {s : State} {o : Offer} {rest : List Offer} (h : s.offers = o :: rest) :
    step s = runOffer o { s with offers := rest } := by
  simp only [step, stepOnce, nextOffer, h]

theorem runOffer_of_decodeWord {w : OpWord} {i : Instr} (a : Agent) (s : State) (h : decodeWord w = .ok i) :
    runOffer (.op a w) s = if i.agent = a then exec i s else .refused (.wrongAgent i a) := by
  simp only [runOffer, h]

/-- Settles O7: the first offer is run, and an operation offered to its own agent is its `exec`. -/
theorem stepRunsTheDecodedOperation : Obligations.StepRunsTheDecodedOperation := by
  intro s a w rest i hoffers hw hagent
  rw [step_of_offers hoffers, runOffer_of_decodeWord a _ hw, if_pos hagent]

/-- Settles O8: the decoder refuses the reserved codes, the binding of R85 another agent's operation, and the accesses
of the host are refused as they are offered. -/
theorem stepRefusesWhatSpellsNoStep : Obligations.StepRefusesWhatSpellsNoStep := by
  refine fun s rest => ⟨fun a w hoffers hw => ?_, fun a w i hoffers hw hagent => ?_, step_of_offers,
    fun v => step_of_offers, step_of_offers⟩
  · have hreserved : 14 ≤ w.toNat := by obtain rfl | rfl := hw <;> decide
    rw [step_of_offers hoffers, runOffer, decodeWord_reserved hreserved]
  · rw [step_of_offers hoffers, runOffer_of_decodeWord a _ hw, if_neg hagent]

/-! ### A queue of offers (R70) -/

/-- An operation carries the rest of the queue through. -/
theorem step_offered (i : Instr) (is : List Instr) (s : State) :
    step (s.withBookkeeping ((i :: is).map offerOf) s.turn) =
      mapNext (State.withBookkeeping (is.map offerOf) s.turn) (exec i s) := by
  rw [step_of_offers (rest := is.map offerOf) rfl, runOffer_offerOf]
  exact exec_withBookkeeping _ _ i s

theorem core_run_offered (is : List Instr) {s : State} (hs : s.offers = []) :
    (Host.Core.run core is.length (s.withBookkeeping (is.map offerOf) s.turn) : Result) = execAll is s := by
  induction is generalizing s with
  | nil => exact congrArg Host.Outcome.next (by rw [List.map_nil, ← hs]; rfl)
  | cons i is ih =>
    have hcore : core.step (s.withBookkeeping ((i :: is).map offerOf) s.turn) = _ := step_offered i is s
    simp only [List.length_cons, Host.Core.run, hcore, execAll]
    cases h : exec i s with
    | next t =>
      obtain ⟨-, hoffers, hturn⟩ := exec_keeps_own h
      simp only [mapNext, ← hturn]
      exact ih (hoffers.trans hs)
    | fault f => rfl
    | refused r => rfl

/-- Settles O10: `core_run_offered`, from the state whose queue is empty. -/
theorem offeredProgramRunsInOrder : Obligations.OfferedProgramRunsInOrder := fun is s =>
  core_run_offered is (s := { s with offers := [] }) rfl

end Sys2Proof.Machine
end

section
/-!
PROOFS. The invariant of every step: it holds after reset, every operation keeps each of its parts, and what it gives
of single states (R131's remark, R230, R250).
-/
namespace Sys2Proof.Machine

/-! ### After reset -/

theorem stateInv_resetWith (c : Config) (draw : U8) : StateInv (State.resetWith c draw) where
  memory := Memory.wf_nil
  locals := ⟨rfl, rfl, rfl⟩
  boot := fun _ => by constructor <;> simp [State.resetWith]
  disabled := fun _ => by constructor <;> simp [State.resetWith]

/-- Settles O44: `State.reset` is the state after reset of one configuration and one draw. -/
theorem invariantHoldsAtReset : Obligations.InvariantHoldsAtReset :=
  ⟨stateInv_resetWith _ _, stateInv_resetWith⟩

/-! ### Canonical memory -/

theorem exec_keeps_memory_wf {i : Instr} {s t : State} (hs : Memory.wf s.mem = true) (h : exec i s = .next t) :
    Memory.wf t.mem = true := by
  by_cases hi : i = .ovfIrq
  · subst hi
    obtain ⟨-, rfl⟩ := execOvfIrq_next h
    exact Memory.wf_writeOvf _ hs
  · obtain ⟨hmem, -⟩ := operationsWriteOnlyTheirRow i s t h
    rw [(hmem hi).1]
    exact hs

/-! ### The locals -/

/-- `LocalsInv` reads five fields. -/
theorem LocalsInv.of_eq {s t : State} (hs : LocalsInv s) (hphase : t.phase = s.phase) (hsave : t.save = s.save)
    (ht : t.t = s.t) (hx : t.x = s.x) (hie : t.ie = s.ie) : LocalsInv t := by
  unfold LocalsInv
  rw [hphase, hsave, ht, hx, hie]
  exact hs

/-- Outside `init` and an activation the invariant of the locals does not read `IE`. -/
theorem LocalsInv.none_of_boot_or_idle {s : State} (hs : LocalsInv s) (hp : s.phase = .boot ∨ s.phase = .idle) :
    s.save = none ∧ s.t = none ∧ s.x = none := by
  obtain hp | hp := hp <;> simpa only [LocalsInv, hp] using hs

theorem LocalsInv.setIe {s : State} (hs : LocalsInv s) (hp : s.phase = .boot ∨ s.phase = .idle) (b : Bool) :
    LocalsInv (s.setIe b) := by
  have hnone := hs.none_of_boot_or_idle hp
  obtain hp | hp := hp <;> simpa [LocalsInv, hp] using hnone

/-- Each foreground step leads from the row of its phase in `LocalsInv` to that of the next. -/
theorem exec_keeps_localsInv {i : Instr} {s t : State} (hs : LocalsInv s) (h : exec i s = .next t) :
    LocalsInv t := by
  cases i with
  | tick =>
    obtain ⟨-, -, rfl⟩ := execTick_next h
    exact hs.of_eq (State.tickOnce_phase s) (State.tickOnce_save s) (State.tickOnce_t s) (State.tickOnce_x s)
      (State.tickOnce_ie s)
  | ovfIrq =>
    obtain ⟨-, -, hie⟩ := exec_background_keeps_sequence (by decide) h
    obtain ⟨-, rfl⟩ := execOvfIrq_next h
    exact hs.of_eq rfl rfl rfl rfl hie
  | msSave =>
    obtain ⟨-, hp, -, rfl⟩ := execMsSave_next h
    obtain ⟨-, ht, hx⟩ := hs.none_of_boot_or_idle hp.symm
    simp [LocalsInv, ht, hx]
  | msRaw =>
    obtain ⟨-, hp, -, rfl⟩ := execMsRaw_next h
    simp_all [LocalsInv]
  | msCli =>
    obtain ⟨-, hp, -, rfl⟩ := execMsCli_next h
    simp_all [LocalsInv]
  | msOvf =>
    obtain ⟨-, hp, -, rfl⟩ := execMsOvf_next h
    simp_all [LocalsInv]
  | msRestore =>
    obtain ⟨-, hp, -, _, -, rfl⟩ := execMsRestore_next h
    simp_all [LocalsInv]
  | msScale =>
    obtain ⟨-, hp, -, _, _, -, -, rfl⟩ := execMsScale_next h
    simp_all [LocalsInv]
  | inDiv =>
    obtain ⟨-, hp, -, rfl⟩ := execInDiv_next h
    simpa [LocalsInv] using hs.none_of_boot_or_idle hp
  | inOie =>
    obtain ⟨-, hp, -, rfl⟩ := execInOie_next h
    simp_all [LocalsInv]
  | inZero =>
    obtain ⟨-, hp, -, rfl⟩ := execInZero_next h
    simp_all [LocalsInv]
  | inSei =>
    obtain ⟨hp, -, rfl⟩ := execInSei_next h
    have hnone : s.save = none ∧ s.t = none ∧ s.x = none := by
      unfold inSeiPhases at hp
      split at hp
      · simp_all [LocalsInv]
      · exact hs.none_of_boot_or_idle (by simpa using hp)
    simpa [LocalsInv] using hnone
  | envCli =>
    obtain ⟨hp, -, rfl⟩ := execEnvCli_next h
    exact hs.setIe hp false
  | envSei =>
    obtain ⟨hp, -, rfl⟩ := execEnvSei_next h
    exact hs.setIe hp true

/-! ### How far boot has come -/

/-- `BootInv` does not read these fields. -/
theorem BootInv.with_unread {s : State} (hs : BootInv s) (mem : Memory) (tcnt : U8) (ie : Bool)
    (save : Option Bool) (t : Option U8) (x result : Option U32) (lost v2 : Nat) (offers : List Offer)
    (turn : Nat) :
    BootInv { s with mem := mem, tcnt := tcnt, ie := ie, save := save, t := t, x := x, result := result,
                     lost := lost, v2 := v2, offers := offers, turn := turn } := by
  obtain ⟨divValue, bootIsFresh, afterInDiv, afterInOie, afterInit, oieNeedsDiv, pendNeedsDiv, ticksNeedDiv,
    useNeedsInit, twiceNeedsInit⟩ := hs
  exact ⟨divValue, bootIsFresh, afterInDiv, afterInOie, afterInit, oieNeedsDiv, pendNeedsDiv, ticksNeedDiv,
    useNeedsInit, twiceNeedsInit⟩

/-- The phases up to the first `IDLE`. -/
def Phase.inBoot : Phase → Bool
  | .boot | .init2 | .init3 | .init4 => true
  | .idle | .ms2 | .ms3 | .ms4 | .ms5 | .ms6 => false

theorem Phase.inBoot_iff (p : Phase) : p.inBoot = true ↔ p = .boot ∨ p = .init2 ∨ p = .init3 ∨ p = .init4 := by
  cases p <;> decide

/-- `BootInv` does not tell the phases outside boot apart. -/
theorem BootInv.goto {s : State} (hs : BootInv s) {p : Phase} (hp : s.phase.inBoot = false)
    (hq : p.inBoot = false) : BootInv (s.goto p) := by
  simp only [← Bool.not_eq_true, Phase.inBoot_iff] at hp hq
  constructor
  case divValue => exact hs.divValue
  case afterInit => exact hs.afterInit
  case oieNeedsDiv => exact hs.oieNeedsDiv
  case pendNeedsDiv => exact hs.pendNeedsDiv
  case ticksNeedDiv => exact hs.ticksNeedDiv
  case twiceNeedsInit => exact hs.twiceNeedsInit
  case useNeedsInit =>
    obtain hdone | huse | hboot := hs.useNeedsInit
    · exact .inl hdone
    · exact .inr (.inl huse)
    · exact absurd hboot hp
  case bootIsFresh => exact fun hboot => absurd (.inl hboot) hq
  case afterInDiv => exact fun hinit => absurd (.inr hinit) hq
  case afterInOie => exact fun hinit => absurd (.inr (.inr hinit)) hq

theorem configDiv_ne_stop (c : Config) : configDiv c ≠ .stop := by
  unfold configDiv dividerFor
  split <;> decide

/-- A tick needs a running timer, which is all that `PEND` and `ticks` tell. -/
theorem BootInv.tickOnce {s : State} (hs : BootInv s) (hdiv : s.div ≠ .stop) : BootInv s.tickOnce := by
  have hrunning : s.div = configDiv s.cfg := hs.divValue.resolve_left hdiv
  obtain ⟨divValue, bootIsFresh, afterInDiv, afterInOie, afterInit, oieNeedsDiv, -, -, useNeedsInit,
    twiceNeedsInit⟩ := hs
  rw [State.tickOnce_eq]
  exact ⟨divValue, bootIsFresh, afterInDiv, afterInOie, afterInit, oieNeedsDiv, fun _ => hrunning,
    fun _ => hrunning, useNeedsInit, twiceNeedsInit⟩

theorem BootInv.dispatched {s : State} (hs : BootInv s) :
    BootInv s.interruptEntry.handlerBody.interruptReturn := by
  obtain ⟨divValue, bootIsFresh, afterInDiv, afterInOie, afterInit, oieNeedsDiv, -, ticksNeedDiv, useNeedsInit,
    twiceNeedsInit⟩ := hs
  exact ⟨divValue, bootIsFresh, afterInDiv, afterInOie, afterInit, oieNeedsDiv, fun h => absurd h Bool.false_ne_true,
    ticksNeedDiv, useNeedsInit, twiceNeedsInit⟩

/-- Boot is left for `MS2` with `INIT_DONE` set, or with `USE_BEFORE_INIT` raised. -/
theorem BootInv.msSave {s t : State} (hs : BootInv s) (h : exec .msSave s = .next t) : BootInv t := by
  obtain ⟨-, -, -, rfl⟩ := execMsSave_next h
  obtain ⟨divValue, -, -, -, afterInit, oieNeedsDiv, pendNeedsDiv, ticksNeedDiv, -, twiceNeedsInit⟩ := hs
  cases hdone : s.initDone <;> constructor <;> simp_all [FaultSet.add]

theorem BootInv.inDiv {s t : State} (hs : BootInv s) (h : exec .inDiv s = .next t) : BootInv t := by
  obtain ⟨-, -, -, rfl⟩ := execInDiv_next h
  obtain ⟨-, -, -, -, afterInit, -, -, -, -, twiceNeedsInit⟩ := hs
  cases hdone : s.initDone <;> constructor <;> simp_all [FaultSet.add]

theorem BootInv.inOie {s t : State} (hs : BootInv s) (h : exec .inOie s = .next t) : BootInv t := by
  obtain ⟨-, hp, -, rfl⟩ := execInOie_next h
  have hdiv : s.div = configDiv s.cfg := hs.afterInDiv (.inl hp)
  constructor
  case twiceNeedsInit => exact hs.twiceNeedsInit
  all_goals simp [hdiv]

theorem BootInv.inZero {s t : State} (hs : BootInv s) (h : exec .inZero s = .next t) : BootInv t := by
  obtain ⟨-, hp, -, rfl⟩ := execInZero_next h
  have hdiv : s.div = configDiv s.cfg := hs.afterInDiv (.inr (.inl hp))
  have hoie : s.oie = true := hs.afterInOie (.inl hp)
  constructor
  case twiceNeedsInit => exact hs.twiceNeedsInit
  all_goals simp [hdiv, hoie]

theorem BootInv.inSei {s t : State} (hm : s.cfg.microsEnabled = true) (hs : BootInv s)
    (h : exec .inSei s = .next t) : BootInv t := by
  obtain ⟨hp, -, rfl⟩ := execInSei_next h
  have hp : s.phase = .init4 := by simpa [inSeiPhases, hm] using hp
  have hdiv : s.div = configDiv s.cfg := hs.afterInDiv (.inr (.inr hp))
  have hoie : s.oie = true := hs.afterInOie (.inr hp)
  constructor <;> simp [hdiv, hoie]

theorem exec_keeps_bootInv {i : Instr} {s t : State} (hm : s.cfg.microsEnabled = true) (hs : BootInv s)
    (h : exec i s = .next t) : BootInv t := by
  cases i with
  | tick => obtain ⟨-, hdiv, rfl⟩ := execTick_next h; exact hs.tickOnce hdiv
  | ovfIrq => obtain ⟨-, rfl⟩ := execOvfIrq_next h; exact hs.dispatched
  | msSave => exact hs.msSave h
  | msRaw =>
    obtain ⟨-, hp, -, rfl⟩ := execMsRaw_next h
    exact BootInv.goto (hs.with_unread ..) (by simp [hp, Phase.inBoot]) rfl
  | msCli =>
    obtain ⟨-, hp, -, rfl⟩ := execMsCli_next h
    exact BootInv.goto (hs.with_unread ..) (by simp [hp, Phase.inBoot]) rfl
  | msOvf =>
    obtain ⟨-, hp, -, rfl⟩ := execMsOvf_next h
    exact BootInv.goto (hs.with_unread ..) (by simp [hp, Phase.inBoot]) rfl
  | msRestore =>
    obtain ⟨-, hp, -, _, -, rfl⟩ := execMsRestore_next h
    exact BootInv.goto (hs.with_unread ..) (by simp [hp, Phase.inBoot]) rfl
  | msScale =>
    obtain ⟨-, hp, -, _, _, -, -, rfl⟩ := execMsScale_next h
    exact BootInv.goto (hs.with_unread ..) (by simp [hp, Phase.inBoot]) rfl
  | inDiv => exact hs.inDiv h
  | inOie => exact hs.inOie h
  | inZero => exact hs.inZero h
  | inSei => exact hs.inSei hm h
  | envCli => obtain ⟨-, -, rfl⟩ := execEnvCli_next h; exact hs.with_unread ..
  | envSei => obtain ⟨-, -, rfl⟩ := execEnvSei_next h; exact hs.with_unread ..

/-! ### The configuration without `micros` -/

theorem DisabledInv.setIe {s : State} (hs : DisabledInv s) (b : Bool) : DisabledInv (s.setIe b) := by
  obtain ⟨phaseValue, bootIsFresh, memory, timer, noResult, ghosts, noUseBeforeInit⟩ := hs
  exact ⟨phaseValue, bootIsFresh, memory, timer, noResult, ghosts, noUseBeforeInit⟩

/-- R86 leaves three operations, and they write what R6 keeps. -/
theorem exec_keeps_disabledInv {i : Instr} {s t : State} (hm : s.cfg.microsEnabled = false) (hs : DisabledInv s)
    (h : exec i s = .next t) : DisabledInv t := by
  by_cases hinSei : i = .inSei
  · subst hinSei
    obtain ⟨-, -, rfl⟩ := execInSei_next h
    obtain ⟨-, -, memory, timer, noResult, ghosts, noUseBeforeInit⟩ := hs
    cases hdone : s.initDone <;> constructor <;> simp_all [FaultSet.add]
  · by_cases henvCli : i = .envCli
    · subst henvCli
      obtain ⟨-, -, rfl⟩ := execEnvCli_next h
      exact hs.setIe false
    · by_cases henvSei : i = .envSei
      · subst henvSei
        obtain ⟨-, -, rfl⟩ := execEnvSei_next h
        exact hs.setIe true
      · rw [exec_of_disabled hm hinSei henvCli henvSei] at h
        cases h

/-! ### Every step -/

theorem exec_keeps_stateInv {i : Instr} {s t : State} (hs : StateInv s) (h : exec i s = .next t) : StateInv t := by
  have hcfg : t.cfg = s.cfg := exec_keeps_cfg h
  obtain ⟨memory, locals, boot, disabled⟩ := hs
  constructor
  case memory => exact exec_keeps_memory_wf memory h
  case locals => exact exec_keeps_localsInv locals h
  case boot => rw [hcfg]; exact fun hm => exec_keeps_bootInv hm (boot hm) h
  case disabled => rw [hcfg]; exact fun hm => exec_keeps_disabledInv hm (disabled hm) h

theorem execAll_keeps_stateInv {is : List Instr} {s t : State} (hs : StateInv s) (h : execAll is s = .next t) :
    StateInv t :=
  execAll_keeps (fun _ _ _ _ => exec_keeps_stateInv) hs h

/-- The invariant reads neither the queue of offers nor the count of free choices. -/
theorem StateInv.withBookkeeping {s : State} (hs : StateInv s) (offers : List Offer) (turn : Nat) :
    StateInv { s with offers := offers, turn := turn } := by
  obtain ⟨memory, locals, boot, disabled⟩ := hs
  refine ⟨memory, locals, fun hm => (boot hm).with_unread .., fun hm => ?_⟩
  obtain ⟨phaseValue, bootIsFresh, memory, timer, noResult, ghosts, noUseBeforeInit⟩ := disabled hm
  exact ⟨phaseValue, bootIsFresh, memory, timer, noResult, ghosts, noUseBeforeInit⟩

/-- Settles O45: every operation keeps the four parts of the invariant, and a step runs one operation. -/
theorem everyStepKeepsTheInvariant : Obligations.EveryStepKeepsTheInvariant := fun _ _ hs h =>
  step_keeps (fun _ _ _ => exec_keeps_stateInv) (fun _ offers turn hs => hs.withBookkeeping offers turn) hs h

end Sys2Proof.Machine
end

section
/-!
PROOFS. What the invariant gives of single states and of fair runs: R131's remark, no fault (R230, R170), no deadlock
(R250), and that what has begun finishes (R140, R285).
-/
namespace Sys2Proof.Machine

/-! ### `MS_SAVE` (R131) -/

/-- R131's remark, for the states in which no model fault has been raised. -/
theorem StateInv.initDone_of_idle {s : State} (hs : StateInv s) (hfaults : s.faultFree) (hp : s.phase = .idle) :
    s.initDone = true := by
  obtain ⟨huse, -⟩ := hfaults
  cases hm : s.cfg.microsEnabled with
  | true => simpa [huse, hp] using (hs.boot hm).useNeedsInit
  | false => simpa [hp] using (hs.disabled hm).bootIsFresh

/-- Settles O16: the effect is `execMsSave_run`, `execMsSave_next` says that a phase is needed, and the last clause is
`StateInv.initDone_of_idle`. -/
theorem msSaveSavesTheInterruptEnable : Obligations.MsSaveSavesTheInterruptEnable := by
  refine ⟨⟨decodeWord_encode .msSave, rfl⟩, fun s =>
    ⟨execMsSave_run, fun hidle hboot t ht => ?_, fun hs => hs.initDone_of_idle⟩⟩
  obtain ⟨-, hp, -⟩ := execMsSave_next ht
  exact hp.elim hidle hboot

/-! ### No fault (R230, R170) -/

/-- An effect that reads no local stops with no fault. -/
theorem fgStep_ne_fault {needsMicros : Bool} {phases : List Phase} {effect : State → Result} {s : State} {f : Fault}
    (heffect : effect s ≠ .fault f) : fgStep needsMicros phases effect s ≠ .fault f := fun h =>
  heffect (fgStep_fault h).2

theorem execTick_ne_fault (s : State) (f : Fault) : execTick s ≠ .fault f := by
  unfold execTick
  split
  · exact nofun
  · split <;> exact nofun

theorem execOvfIrq_ne_fault (s : State) (f : Fault) : execOvfIrq s ≠ .fault f := by
  unfold execOvfIrq
  split
  · exact nofun
  · split <;> exact nofun

theorem execMsSave_ne_fault (s : State) (f : Fault) : execMsSave s ≠ .fault f := by
  unfold execMsSave
  split
  · exact nofun
  · exact fgStep_ne_fault nofun

theorem execMsRestore_ne_fault {s : State} (hs : LocalsInv s) (f : Fault) : execMsRestore s ≠ .fault f := by
  intro h
  obtain ⟨hp, he⟩ := fgStep_fault h
  obtain ⟨b, hb⟩ := hs.save_of_ms5 (List.mem_singleton.1 hp)
  rw [hb, withLocal_some] at he
  cases he

theorem execMsScale_ne_fault {s : State} (hs : LocalsInv s) (f : Fault) : execMsScale s ≠ .fault f := by
  intro h
  obtain ⟨hp, he⟩ := fgStep_fault h
  obtain ⟨x, raw, hx, ht⟩ := hs.values_of_ms6 (List.mem_singleton.1 hp)
  rw [hx, ht, withLocal_some, withLocal_some] at he
  cases he

theorem exec_ne_fault {s : State} (hs : LocalsInv s) (i : Instr) (f : Fault) : exec i s ≠ .fault f := by
  cases i with
  | tick => exact execTick_ne_fault s f
  | ovfIrq => exact execOvfIrq_ne_fault s f
  | msSave => exact execMsSave_ne_fault s f
  | msRestore => exact execMsRestore_ne_fault hs f
  | msScale => exact execMsScale_ne_fault hs f
  | msRaw | msCli | msOvf | inDiv | inOie | inZero | inSei | envCli | envSei =>
    unfold exec
    refine fgStep_ne_fault ?_
    exact nofun

/-- Settles O42: `MS_RESTORE` and `MS_SCALE` read locals that hold values in their phases; no other operation reads a
local. -/
theorem invariantRulesOutFaults : Obligations.InvariantRulesOutFaults := fun i _ f hs => exec_ne_fault hs.locals i f

/-! ### No deadlock (R250) -/

theorem Phase.mem_phaseTable (p : Phase) : ∃ i q, (p, i, q) ∈ phaseTable := by
  have hall : ∀ p : Phase, ∃ r ∈ phaseTable, r.1 = p := by intro p; cases p <;> decide
  obtain ⟨⟨_, i, q⟩, hr, rfl⟩ := hall p
  exact ⟨i, q, hr⟩

/-- In the states of the invariant every phase enables some foreground operation. -/
theorem StateInv.phaseEnablesForeground {s : State} (hs : StateInv s) : s.phaseEnablesForeground := by
  cases hm : s.cfg.microsEnabled with
  | true => simpa [State.phaseEnablesForeground, phaseRows, hm] using s.phase.mem_phaseTable
  | false => exact ⟨.envCli, s.phase, mem_phaseRows_host s.cfg (.inl rfl) (hs.disabled hm).phaseValue⟩

theorem StateInv.exists_enabled {s : State} (hs : StateInv s) : ∃ i, enabled i s = true := by
  cases hfirst : s.dispatchComesFirst with
  | true =>
    obtain ⟨-, hdispatch⟩ := (State.dispatchComesFirst_iff s).1 hfirst
    exact ⟨.ovfIrq, (enabled_iff _ s).2 ⟨_, execOvfIrq_run hdispatch⟩⟩
  | false =>
    obtain ⟨i, p, hrow⟩ := hs.phaseEnablesForeground
    obtain ⟨t, ht, -⟩ := exec_of_mem_phaseRows hs.locals hfirst hrow
    exact ⟨i, (enabled_iff i s).2 ⟨t, ht⟩⟩

/-- Settles O46: a dispatch that comes first is enabled, and otherwise a row of the phase is; a step that is offered
nothing takes an enabled operation. -/
theorem coreNeverDeadlocks : Obligations.CoreNeverDeadlocks := by
  intro s hs hoffers
  obtain ⟨i, hi⟩ := hs.exists_enabled
  obtain ⟨_, t, -, -, ht⟩ := (stepTakesAnEnabledOperation s hoffers).1 i hi
  exact ⟨t, ht⟩

/-! ### What has begun finishes (R140, R250) -/

/-- Without `micros` the foreground stays in `BOOT` and `IDLE`. -/
theorem StateInv.microsEnabled_of_stepsLeft {s : State} (hs : StateInv s) (hleft : s.phase.stepsLeft ≠ 0) :
    s.cfg.microsEnabled = true := by
  cases hm : s.cfg.microsEnabled with
  | true => rfl
  | false => obtain hp | hp := (hs.disabled hm).phaseValue <;> exact absurd (by rw [hp]; rfl) hleft

/-- Outside `BOOT` and `IDLE` the phase table is a chain to `IDLE`. -/
theorem phaseTable_step_of_stepsLeft {p q : Phase} {i : Instr} (hrow : (p, i, q) ∈ phaseTable)
    (hleft : p.stepsLeft ≠ 0) : q.stepsLeft + 1 = p.stepsLeft ∧ q ≠ .boot := by
  have hall : ∀ r ∈ phaseTable, r.1.stepsLeft ≠ 0 → r.2.2.stepsLeft + 1 = r.1.stepsLeft ∧ r.2.2 ≠ .boot := by
    decide
  exact hall _ hrow hleft

theorem phaseTable_op_unique {p q q' : Phase} {i j : Instr} (hi : (p, i, q) ∈ phaseTable)
    (hj : (p, j, q') ∈ phaseTable) (hleft : p.stepsLeft ≠ 0) : j = i := by
  have hall : ∀ r ∈ phaseTable, ∀ r' ∈ phaseTable, r.1.stepsLeft ≠ 0 → r'.1 = r.1 → r'.2.1 = r.2.1 := by decide
  exact hall _ hi _ hj hleft rfl

section
variable {s : State} (hs : StateInv s) (hleft : s.phase.stepsLeft ≠ 0)
include hs hleft

theorem StateInv.mem_phaseTable_of_exec {i : Instr} {t : State} (hfg : i.agent = .fg) (h : exec i s = .next t) :
    (s.phase, i, t.phase) ∈ phaseTable := by
  simpa [phaseRows, hs.microsEnabled_of_stepsLeft hleft] using exec_foreground_mem_phaseRows hfg h

theorem StateInv.exec_foreground_stepsLeft {i : Instr} {t : State} (hfg : i.agent = .fg) (h : exec i s = .next t) :
    t.phase.stepsLeft + 1 = s.phase.stepsLeft ∧ t.phase ≠ .boot :=
  phaseTable_step_of_stepsLeft (hs.mem_phaseTable_of_exec hleft hfg h) hleft

end

/-- The operations of the phase table are the foreground's. -/
theorem agent_of_mem_phaseTable {p q : Phase} {i : Instr} (hrow : (p, i, q) ∈ phaseTable) : i.agent = .fg := by
  have hall : ∀ r ∈ phaseTable, r.2.1.agent = .fg := by decide
  exact hall _ hrow

/-- Settles O47: the phase has one row, which is a step and leads one step nearer; the other agents keep the phase. -/
theorem foregroundStepsLeadToIdle : Obligations.ForegroundStepsLeadToIdle := by
  intro s hs hleft
  refine ⟨fun hd => ?_, fun i t hfg h => (hs.exec_foreground_stepsLeft hleft hfg h).1, fun i t hbg h => ?_⟩
  · obtain ⟨i, p, hrow⟩ := s.phase.mem_phaseTable
    obtain ⟨t, ht, -⟩ := exec_of_mem_phaseTable (hs.microsEnabled_of_stepsLeft hleft) hs.locals hd hrow
    exact ⟨i, t, agent_of_mem_phaseTable hrow, ht, fun j u hj hu =>
      phaseTable_op_unique hrow (hs.mem_phaseTable_of_exec hleft hj hu) hleft⟩
  · rw [(exec_background_keeps_sequence hbg h).1]

/-! ### Fair runs (R285) -/

section
variable {st : Nat → State} {op : Nat → Instr} (hrun : FairRun st op) (h0 : StateInv (st 0))
include hrun h0

theorem FairRun.stateInv (n : Nat) : StateInv (st n) := by
  induction n with
  | zero => exact h0
  | succ n ih => exact exec_keeps_stateInv ih (hrun.steps n)

omit h0 in
/-- While the foreground takes no step, its phase stays. -/
theorem FairRun.phase_of_background {n m : Nat} (hle : n ≤ m) (hbg : ∀ k, n ≤ k → (op k).agent ≠ .fg) :
    (st m).phase = (st n).phase := by
  induction hle with
  | refl => rfl
  | @step m hle ih => exact (exec_background_keeps_sequence (hbg m hle) (hrun.steps m)).1.trans ih

/-- Outside `BOOT` and `IDLE` the foreground takes its next step: as long as it does not, its phase goes on enabling
it. -/
theorem FairRun.exists_foreground {n : Nat} (hleft : (st n).phase.stepsLeft ≠ 0) :
    ∃ m, n ≤ m ∧ (op m).agent = .fg := by
  refine Classical.byContradiction fun hnot => ?_
  have hnone : ∀ m, n ≤ m → (op m).agent ≠ .fg := fun m hle hfg => hnot ⟨m, hle, hfg⟩
  refine hnot (hrun.fgFair n fun m hle => ?_)
  rw [hrun.phase_of_background hle hnone]
  exact ⟨hleft, (hrun.stateInv h0 m).phaseEnablesForeground⟩

/-- A foreground step to come, `d` steps later or sooner, brings `IDLE` one step nearer. -/
theorem FairRun.exists_nearer_of_foreground {n d : Nat} (hleft : (st n).phase.stepsLeft ≠ 0)
    (hfg : (op (n + d)).agent = .fg) :
    ∃ m, n ≤ m ∧ (st m).phase.stepsLeft + 1 = (st n).phase.stepsLeft ∧ (st m).phase ≠ .boot := by
  induction d generalizing n with
  | zero => exact ⟨n + 1, Nat.le_succ n, (hrun.stateInv h0 n).exec_foreground_stepsLeft hleft hfg (hrun.steps n)⟩
  | succ d ih =>
    by_cases hnow : (op n).agent = .fg
    · exact ⟨n + 1, Nat.le_succ n, (hrun.stateInv h0 n).exec_foreground_stepsLeft hleft hnow (hrun.steps n)⟩
    · obtain ⟨hphase, -, -⟩ := exec_background_keeps_sequence hnow (hrun.steps n)
      rw [← hphase] at hleft ⊢
      obtain ⟨m, hle, hnearer⟩ := ih hleft (by rw [Nat.add_right_comm]; exact hfg)
      exact ⟨m, Nat.le_of_succ_le hle, hnearer⟩

theorem FairRun.exists_nearer {n : Nat} (hleft : (st n).phase.stepsLeft ≠ 0) :
    ∃ m, n ≤ m ∧ (st m).phase.stepsLeft + 1 = (st n).phase.stepsLeft ∧ (st m).phase ≠ .boot := by
  obtain ⟨m, hle, hfg⟩ := hrun.exists_foreground h0 hleft
  obtain ⟨d, rfl⟩ := Nat.exists_eq_add_of_le hle
  exact hrun.exists_nearer_of_foreground h0 hleft hfg

end

theorem Phase.eq_idle_of_stepsLeft {p : Phase} (hleft : p.stepsLeft = 0) (hboot : p ≠ .boot) : p = .idle := by
  cases p <;> simp_all [Phase.stepsLeft]

/-- Settles O48, by induction on the steps left: each is taken by `FairRun.exists_nearer`. -/
theorem fairRunsReturnToIdle : Obligations.FairRunsReturnToIdle := by
  intro st op hrun h0 n hleft
  generalize hk : (st n).phase.stepsLeft = k at hleft
  induction k generalizing n with
  | zero => exact absurd rfl hleft
  | succ k ih =>
    obtain ⟨m, hnm, hnearer, hboot⟩ := hrun.exists_nearer h0 (hk ▸ hleft)
    by_cases hdone : k = 0
    · exact ⟨m, hnm, Phase.eq_idle_of_stepsLeft (by omega) hboot⟩
    · obtain ⟨l, hml, hidle⟩ := ih m (by omega) hdone
      exact ⟨l, Nat.le_trans hnm hml, hidle⟩

end Sys2Proof.Machine
end

section
/-!
PROOFS. The statements of spec/41_micros_sync.md about runs: the critical section (R72, R138), an activation that
nothing interleaves (R130), and what a read returns (R142 to R146).
-/
namespace Sys2Proof.Machine

/-! ### The critical section (R72, R138) -/

/-- By induction on the run: in the critical section `IE` masks the handler, and every other operation but `MS_RESTORE`
stays in it and leaves `OVF` alone. -/
theorem inCritical_run {is : List Instr} {s t : State} (hs : InCritical s) (his : Instr.msRestore ∉ is)
    (h : execAll is s = .next t) : Instr.ovfIrq ∉ is ∧ InCritical t ∧ t.ovf = s.ovf := by
  induction is generalizing s with
  | nil => cases h; exact ⟨List.not_mem_nil, hs, rfl⟩
  | cons i is ih =>
    obtain ⟨hi, his⟩ := not_or.1 (mt List.mem_cons.2 his)
    obtain ⟨u, hu, h⟩ := execAll_cons_next h
    have hirq : i ≠ .ovfIrq := ne_ovfIrq_of_masked (.inl hs.ie) hu
    obtain ⟨hrest, ht, hovf⟩ := ih (exec_keeps_inCritical (Ne.symm hi) hs hu).1 his h
    exact ⟨fun hmem => (List.mem_cons.1 hmem).elim (Ne.symm hirq) hrest, ht, hovf.trans (exec_keeps_ovf hirq hu)⟩

/-- Settles O49: `MS_CLI` enters the critical section, and `inCritical_run` is the rest of the run. -/
theorem handlerStaysOutOfTheCriticalSection : Obligations.HandlerStaysOutOfTheCriticalSection := by
  intro s t is his hrun
  obtain ⟨u, hu, hrun⟩ := execAll_cons_next hrun
  have hovf : u.ovf = s.ovf := exec_keeps_ovf (by decide) hu
  obtain ⟨-, -, -, rfl⟩ := execMsCli_next hu
  obtain ⟨hirq, ht, hovf'⟩ := inCritical_run ⟨.inl rfl, rfl⟩ his hrun
  exact ⟨hirq, ht.ie, hovf'.trans hovf⟩

/-! ### A local that holds no value -/

/-- Settles O43: the guard of the step holds, and the read of the local is the fault. -/
theorem unsetLocalsStopTheMachine : Obligations.UnsetLocalsStopTheMachine := by
  intro s hm hd
  refine ⟨fun hp hsave => ?_, fun hp hx => ?_, fun hp hx ht => ?_⟩
  · unfold exec execMsRestore
    rw [fgStep_run _ (fun _ => hm) (List.mem_singleton.2 hp) hd, hsave]
    rfl
  · unfold exec execMsScale
    rw [fgStep_run _ (fun _ => hm) (List.mem_singleton.2 hp) hd, hx]
    rfl
  · obtain ⟨x, hx⟩ := Option.ne_none_iff_exists'.1 hx
    unfold exec execMsScale
    rw [fgStep_run _ (fun _ => hm) (List.mem_singleton.2 hp) hd, hx, withLocal_some, ht]
    rfl

/-! ### An activation that nothing interleaves (R130) -/

/-- R134, R135 and R170 in their order, whatever the foreground found in `IE`. -/
theorem execAll_after_msCli {s : State} {b : Bool} {raw : U8} (hm : s.cfg.microsEnabled = true)
    (hp : s.phase = .ms4) (hie : s.ie = false) (hsave : s.save = some b) (ht : s.t = some raw)
    (hd : (s.setIe b).dispatchComesFirst = false) :
    execAll [.msOvf, .msRestore, .msScale] s = .next
      { s with result := some (convert s.ovf raw (configK s.cfg)), phase := .idle, ie := b,
               save := none, t := none, x := none } :=
  calc execAll [.msOvf, .msRestore, .msScale] s
    _ = execAll [.msRestore, .msScale] { s with x := some s.ovf, phase := .ms5 } :=
      execAll_cons_of_next _ (execMsOvf_run hm (State.dispatchComesFirst_of_ie hie) hp)
    _ = execAll [.msScale] { s with x := some s.ovf, ie := b, save := none, phase := .ms6 } :=
      execAll_cons_of_next _
        ((msRestoreLeavesTheCriticalSection.2 _).1 b hm rfl (State.dispatchComesFirst_of_ie hie) hsave)
    _ = execAll [] _ := execAll_cons_of_next _ (execMsScale_run hm rfl hd rfl ht)

/-- R131 to R135 and R170 in their order. Every state on the way has the dispatch condition of `s`, or `IE = 0`. -/
theorem execAll_micros {s : State} (hm : s.cfg.microsEnabled = true) (hp : s.phase = .idle ∨ s.phase = .boot)
    (hd : s.dispatchComesFirst = false) :
    execAll (Pseudo.micros.expand true) s = .next
      { s with result := some (convert s.ovf s.tcnt (configK s.cfg)), phase := .idle, v2 := s.ticks,
               save := none, t := none, x := none,
               faults := if s.initDone then s.faults else { s.faults with useBeforeInit := true } } :=
  calc execAll [.msSave, .msRaw, .msCli, .msOvf, .msRestore, .msScale] s
    _ = execAll [.msRaw, .msCli, .msOvf, .msRestore, .msScale] _ :=
      execAll_cons_of_next _ (execMsSave_run hm hp hd)
    _ = execAll [.msCli, .msOvf, .msRestore, .msScale] _ := execAll_cons_of_next _ (execMsRaw_run hm hd rfl)
    _ = execAll [.msOvf, .msRestore, .msScale] _ := execAll_cons_of_next _ (execMsCli_run hm hd rfl)
    _ = _ := execAll_after_msCli hm rfl rfl rfl rfl hd

/-- Settles O51: `execAll_micros` is the statement. -/
theorem undisturbedReadReturnsTheTime : Obligations.UndisturbedReadReturnsTheTime := fun _ => execAll_micros

/-! ### A read in progress (R142 to R144) -/

/-- R142: while `TCNT` is `ticks` modulo 256, a wrap is one period more since `MS_RAW`. -/
theorem State.wrapsBetweenReads_tickOnce {s : State} (hraw : s.tcnt.toNat = s.ticks % 256) :
    s.tickOnce.wrapsBetweenReads = s.wrapsBetweenReads + (decide (s.tcnt = 255#8)).toNat := by
  simp only [State.wrapsBetweenReads, State.tickOnce_ticks, State.tickOnce_v2, State.periods_after_tick hraw]
  omega

/-- R142: no tick changes the tear, since the overflow of a wrap is pending or lost. -/
theorem State.tear_tickOnce {s : State} (hraw : s.tcnt.toNat = s.ticks % 256) : s.tickOnce.tear = s.tear := by
  simp only [State.tear, State.wrapsBetweenReads_tickOnce hraw, State.tickOnce_pend, State.tickOnce_lost]
  cases s.pend <;> simp; omega

/-- From `MS_RAW` to `MS_OVF`: `T` is `V2` modulo 256 (R142), with `SAVE = 0` no dispatch has made the tear positive,
and with `SAVE = 1` and prompt dispatch what is pending has wrapped since `MS_RAW` (R144). -/
structure ReadInProgress (s : State) : Prop where
  raw : ∃ raw, s.t = some raw ∧ raw.toNat = s.v2 % 256
  started : s.v2 ≤ s.ticks
  masked : s.save = some false → s.tear ≤ 0
  prompt : s.save = some true → s.cfg.promptDispatch = true → (s.pend.toNat : Int) ≤ s.wrapsBetweenReads

theorem ReadInProgress.wrapsBetweenReads_nonneg {s : State} (hs : ReadInProgress s) :
    0 ≤ s.wrapsBetweenReads := by
  have hle : s.v2 / 256 ≤ s.ticks / 256 := Nat.div_le_div_right hs.started
  simp only [State.wrapsBetweenReads]
  omega

theorem ReadInProgress.tickOnce {s : State} (hs : ReadInProgress s) (hraw : s.tcnt.toNat = s.ticks % 256) :
    ReadInProgress s.tickOnce := by
  constructor
  case raw => simpa using hs.raw
  case started => simpa using Nat.le_succ_of_le hs.started
  case masked => simpa [State.tear_tickOnce hraw] using hs.masked
  case prompt =>
    intro hsave hprompt
    have hle := hs.prompt (by simpa using hsave) (by simpa using hprompt)
    rw [State.wrapsBetweenReads_tickOnce hraw, State.tickOnce_pend]
    have hor : (s.pend || decide (s.tcnt = 255#8)).toNat ≤ s.pend.toNat + (decide (s.tcnt = 255#8)).toNat := by
      cases s.pend <;> simp
    omega

/-- A dispatch is possible only in a read with `SAVE = 1`, and leaves nothing pending. -/
theorem ReadInProgress.dispatched {s : State} (hs : ReadInProgress s) (hsave : s.save ≠ some false) :
    ReadInProgress s.interruptEntry.handlerBody.interruptReturn where
  raw := hs.raw
  started := hs.started
  masked := fun h => absurd h hsave
  prompt := fun _ _ => hs.wrapsBetweenReads_nonneg

/-- R42: only `IN_OIE` writes `OIE`, and it sets it. -/
theorem exec_keeps_oie {i : Instr} {s t : State} (hs : s.oie = true) (h : exec i s = .next t) : t.oie = true := by
  by_cases hi : i = .inOie
  · subst hi
    obtain ⟨-, -, -, rfl⟩ := execInOie_next h
    rfl
  · obtain ⟨-, -, -, hoie, -⟩ := operationsWriteOnlyTheirRow i s t h
    exact (hoie hi).trans hs

/-- About a state in a run after a clean `init`, before another `IN_ZERO`. -/
structure AfterCleanInit (s : State) : Prop where
  inv : StateInv s
  count : CountFollowsTicks 0 s
  oie : s.oie = true
  read : s.phase = .ms3 ∨ s.phase = .ms4 → ReadInProgress s

/-- R144: with prompt dispatch and `SAVE = 1` nothing is pending at `MS_RAW`. -/
theorem AfterCleanInit.readInProgress_msRaw {s t : State} (hs : AfterCleanInit s) (h : exec .msRaw s = .next t) :
    ReadInProgress t := by
  obtain ⟨hm, hp, hd, rfl⟩ := execMsRaw_next h
  have hlocals := hs.inv.locals
  simp only [LocalsInv, hp] at hlocals
  obtain ⟨hsave, -, -⟩ := hlocals
  constructor
  case raw => exact ⟨s.tcnt, rfl, hs.count.raw⟩
  case started => exact Nat.le_refl _
  case masked =>
    intro _
    simp only [State.tear, State.wrapsBetweenReads, State.goto_ticks, State.goto_v2, State.goto_pend, State.goto_lost]
    omega
  case prompt =>
    intro hsave' hprompt
    have hie : s.ie = true := Option.some.inj (hsave.symm.trans hsave')
    have hpend : s.pend = false := Bool.eq_false_iff.2 fun hpend => by
      have hdispatch := (State.dispatchable_iff s).2 ⟨hm, hie, hpend, hs.oie⟩
      exact Bool.false_ne_true (hd.symm.trans ((State.dispatchComesFirst_iff s).2 ⟨hprompt, hdispatch⟩))
    simp only [State.wrapsBetweenReads, State.goto_ticks, State.goto_v2, State.goto_pend, hpend, Bool.toNat_false]
    omega

/-- R134, R136: with `SAVE = 0` the read goes on under a mask. -/
theorem StateInv.save_of_ie {s : State} (hs : StateInv s) (hp : s.phase = .ms3 ∨ s.phase = .ms4)
    (hie : s.ie = true) : s.save ≠ some false := by
  have hlocals := hs.locals
  obtain hp | hp := hp <;> simp_all [LocalsInv]

/-- R33: the foreground steps that lead to `MS3` and `MS4`. -/
theorem exec_foreground_to_read {i : Instr} {s t : State} (hfg : i.agent = .fg) (h : exec i s = .next t)
    (hp : t.phase = .ms3 ∨ t.phase = .ms4) : i = .msRaw ∨ i = .msCli := by
  have hall : ∀ r ∈ phaseTable ++ phaseTableDisabled,
      r.2.2 = .ms3 ∨ r.2.2 = .ms4 → r.2.1 = .msRaw ∨ r.2.1 = .msCli := by decide
  refine hall (s.phase, i, t.phase) (List.mem_append.2 ?_) hp
  have hrow := exec_foreground_mem_phaseRows hfg h
  unfold phaseRows at hrow
  split at hrow
  · exact .inl hrow
  · exact .inr hrow

theorem AfterCleanInit.exec_read {i : Instr} {s t : State} (hs : AfterCleanInit s) (h : exec i s = .next t)
    (hp : t.phase = .ms3 ∨ t.phase = .ms4) : ReadInProgress t := by
  obtain rfl | rfl | hfg := Instr.tick_or_ovfIrq_or_foreground i
  · obtain ⟨-, -, rfl⟩ := execTick_next h
    exact (hs.read (by simpa using hp)).tickOnce hs.count.raw
  · obtain ⟨hdispatch, rfl⟩ := execOvfIrq_next h
    obtain ⟨-, hie, -, -⟩ := (State.dispatchable_iff s).1 hdispatch
    exact (hs.read hp).dispatched (hs.inv.save_of_ie hp hie)
  · obtain rfl | rfl := exec_foreground_to_read hfg h hp
    · exact hs.readInProgress_msRaw h
    · obtain ⟨-, hms3, -, rfl⟩ := execMsCli_next h
      obtain ⟨raw, started, masked, prompt⟩ := hs.read (.inl hms3)
      exact ⟨raw, started, masked, prompt⟩

theorem exec_keeps_afterCleanInit {i : Instr} {s t : State} (hi : i ≠ .inZero) (hs : AfterCleanInit s)
    (h : exec i s = .next t) : AfterCleanInit t where
  inv := exec_keeps_stateInv hs.inv h
  count := exec_keeps_countFollowsTicks hi hs.count h
  oie := exec_keeps_oie hs.oie h
  read := hs.exec_read h

/-- R209: a clean `init` has `OVF` and `PEND` clear at `IN_ZERO`. -/
theorem afterCleanInit_inZero {z s : State} (hz : StateInv z) (hovf : z.ovf = 0) (hpend : z.pend = false)
    (h : exec .inZero z = .next s) : AfterCleanInit s := by
  have hcount := countFollowsTicks_inZero h
  have hinv := exec_keeps_stateInv hz h
  obtain ⟨hm, hp, -, rfl⟩ := execInZero_next h
  constructor
  case inv => exact hinv
  case count => simpa [hovf, hpend] using hcount
  case oie => exact (hz.boot hm).afterInOie (.inl hp)
  case read => intro hread; simp at hread

section
variable {z s t : State} {is : List Instr} (hread : ReadAfterCleanInit z s t is)
include hread

theorem ReadAfterCleanInit.afterCleanInit : AfterCleanInit s := by
  obtain ⟨u, hu, hrun⟩ := execAll_cons_next hread.run
  exact execAll_keeps (fun i hi _ _ => exec_keeps_afterCleanInit fun heq => hread.lastZero (heq ▸ hi))
    (afterCleanInit_inZero hread.inv hread.ovfZero hread.pendClear hu) hrun

theorem ReadAfterCleanInit.eq_msOvf : t = ({ s with x := some s.ovf } : State).goto .ms5 := by
  obtain ⟨-, -, -, ht⟩ := execMsOvf_next hread.read
  exact ht

/-- `MS_OVF` writes nothing that the read's tear is made of. -/
theorem ReadAfterCleanInit.readInProgress : ReadInProgress t := by
  obtain ⟨-, hp, -, rfl⟩ := execMsOvf_next hread.read
  obtain ⟨raw, started, masked, prompt⟩ := hread.afterCleanInit.read (.inr hp)
  exact ⟨raw, started, masked, prompt⟩

end

/-! ### What a read returns (R142 to R144) -/

/-- R142: `OVF` is the periods in `ticks` less what is pending or lost, and `V2` is its periods and `T`. -/
theorem combine_eq_of_countFollowsTicks {s : State} (hs : CountFollowsTicks 0 s) {raw : U8}
    (hraw : raw.toNat = s.v2 % 256) : combine s.ovf raw = BitVec.ofInt 32 ((s.v2 : Int) + 256 * s.tear) := by
  have hseen := hs.overflows
  apply BitVec.eq_of_toNat_eq
  rw [toNat_combine, BitVec.toNat_ofInt]
  simp only [State.tear, State.wrapsBetweenReads, State.overflowsSeen] at hseen ⊢
  omega

/-- Settles O54: `AfterCleanInit` holds at `MS_OVF`, and `combine_eq_of_countFollowsTicks` is the value of the two
reads. -/
theorem readIsExactUpToItsTear : Obligations.ReadIsExactUpToItsTear := by
  intro z s t is hread
  have hcount := hread.afterCleanInit.count
  obtain ⟨raw, ht, hraw⟩ := hread.readInProgress.raw
  obtain rfl := hread.eq_msOvf
  refine ⟨hcount.raw, rfl, rfl, rfl, rfl, ?_⟩
  have hx : (({ s with x := some s.ovf } : State).goto .ms5).x = some s.ovf := rfl
  simp only [State.tickValue, hx, ht]
  exact congrArg some (combine_eq_of_countFollowsTicks hcount hraw)

/-- R143: fewer than 256 ticks are at most one wrap. -/
theorem ReadInProgress.wrapsBetweenReads_cases {s : State} (hs : ReadInProgress s) (hticks : s.ticks < s.v2 + 256) :
    s.wrapsBetweenReads = 0 ∨ s.wrapsBetweenReads = 1 := by
  have hle := hs.started
  simp only [State.wrapsBetweenReads]
  omega

/-- Settles O55: one wrap or none, pending or not, are the rows of R143's table. -/
theorem readIsWithinOneOverflowPeriod : Obligations.ReadIsWithinOneOverflowPeriod := by
  intro z s t is hread hlost hticks
  obtain ⟨-, -, -, -, -, hvalue⟩ := readIsExactUpToItsTear z s t is hread
  rw [State.tear, hlost] at hvalue
  obtain hw | hw := hread.readInProgress.wrapsBetweenReads_cases hticks <;> cases hpend : t.pend <;>
    simp [hw, hpend] at hvalue ⊢ <;> exact hvalue

/-- Settles O56: a read under a mask has no positive tear, and at most one overflow is pending. -/
theorem maskedReadHasNoForwardTear : Obligations.MaskedReadHasNoForwardTear := by
  intro z s t is hread hlost hticks hsave
  have hmasked := hread.readInProgress.masked hsave
  have hw := hread.readInProgress.wrapsBetweenReads_nonneg
  have hpend := Bool.toNat_le t.pend
  simp only [State.tear, hlost] at hmasked ⊢
  omega

/-- Settles O57: what is pending has wrapped since `MS_RAW`, and there is at most one wrap. -/
theorem promptReadHasNoBackwardTear : Obligations.PromptReadHasNoBackwardTear := by
  intro z s t is hread hlost hticks hsave hprompt
  have hpend := hread.readInProgress.prompt hsave hprompt
  have hw := hread.readInProgress.wrapsBetweenReads_cases hticks
  simp only [State.tear, hlost]
  omega

/-! ### Two reads of one run (R146) -/

/-- R104: `OVF` counts the dispatches of a run. -/
theorem execAll_counts_dispatches {is : List Instr} {s t : State} (h : execAll is s = .next t) :
    t.ovf = s.ovf + BitVec.ofNat 32 (is.count .ovfIrq) := by
  induction is generalizing s with
  | nil => cases h; simp
  | cons i is ih =>
    obtain ⟨u, hu, h⟩ := execAll_cons_next h
    rw [ih h]
    by_cases hi : i = .ovfIrq
    · subst hi
      rw [(execOvfIrq_counts hu).2, List.count_cons_self, Nat.add_comm _ 1, BitVec.ofNat_add, BitVec.add_assoc]
      rfl
    · rw [exec_keeps_ovf hi hu, List.count_cons_of_ne hi]

/-- The tick value that `MS_OVF` leaves is made of `OVF` and some raw value. -/
theorem tickValue_msOvf {s t : State} {c : U32} (h : exec .msOvf s = .next t) (hc : t.tickValue = some c) :
    t.ovf = s.ovf ∧ ∃ raw, c = combine s.ovf raw := by
  obtain ⟨-, -, -, rfl⟩ := execMsOvf_next h
  refine ⟨rfl, ?_⟩
  cases ht : s.t with
  | none => simp [State.tickValue, ht] at hc
  | some raw =>
    refine ⟨raw, ?_⟩
    simpa [State.tickValue, ht] using hc.symm

/-- R171: what `X << 8` keeps of the count. -/
theorem toNat_combine_low (x : U32) (raw : U8) : (combine x raw).toNat = x.toNat % 2 ^ 24 * 256 + raw.toNat := by
  have hraw := raw.isLt
  rw [toNat_combine]
  omega

/-- Settles O60: the dispatches between the reads raise the low 24 bits of `OVF`, or leave them; only the raw value can
be smaller. -/
theorem laterReadIsAtMost255TicksBelow : Obligations.LaterReadIsAtMost255TicksBelow := by
  intro a₀ a b₀ b is ca cb ha hrun hb hca hcb hbound
  obtain ⟨hovf, rawA, rfl⟩ := tickValue_msOvf ha hca
  obtain ⟨-, rawB, rfl⟩ := tickValue_msOvf hb hcb
  have hcount := execAll_counts_dispatches hrun
  have hrawA := rawA.isLt
  rw [hovf] at hcount hbound
  rw [toNat_combine_low, toNat_combine_low, hcount, BitVec.toNat_add, BitVec.toNat_ofNat]
  omega

end Sys2Proof.Machine
end

section
/-!
PROOFS. Runs from reset: a boot with no wrap (R276), a wrap in the window of `init` (R208), and the two tears of a read
that MC §3 rules out and the machine has (R144, R145); and the bytes that the handler stores (R63).
-/
namespace Sys2Proof.Machine

/-! ### The bytes of the handler's store (R63) -/

/-- Settles O13: the handler writes the cell, whose bytes `Memory.readByte_writeOvf` gives. -/
theorem handlerStoresLittleEndian : Obligations.HandlerStoresLittleEndian := by
  intro s t i h hi
  obtain ⟨-, rfl⟩ := execOvfIrq_next h
  exact Memory.readByte_writeOvf s.mem (s.ovf + 1) hi

/-! ### A boot with no wrap (R276) -/

/-- Only a wrap makes an overflow pending, and only a pending overflow is counted. -/
theorem exec_keeps_pend_clear {i : Instr} {s t : State} (hwrap : isWrap i s = false) (hpend : s.pend = false)
    (h : exec i s = .next t) : t.pend = false ∧ t.ovf = s.ovf := by
  have hirq : i ≠ .ovfIrq := by
    rintro rfl
    obtain ⟨hdispatch, -⟩ := execOvfIrq_next h
    obtain ⟨-, -, hset, -⟩ := (State.dispatchable_iff s).1 hdispatch
    exact Bool.false_ne_true (hpend.symm.trans hset)
  refine ⟨?_, exec_keeps_ovf hirq h⟩
  obtain rfl | hi | hfg := Instr.tick_or_ovfIrq_or_foreground i
  · obtain ⟨-, -, rfl⟩ := execTick_next h
    simpa [isWrap, hpend] using hwrap
  · exact absurd hi hirq
  · obtain ⟨-, hkept, -⟩ := exec_foreground_keeps_counts hfg h
    exact hkept.trans hpend

theorem execAll_keeps_pend_clear {is : List Instr} {s t : State} (hwraps : wraps is s = 0) (hpend : s.pend = false)
    (h : execAll is s = .next t) : t.pend = false ∧ t.ovf = s.ovf := by
  induction is generalizing s with
  | nil => cases h; exact ⟨hpend, rfl⟩
  | cons i is ih =>
    obtain ⟨u, hu, h⟩ := execAll_cons_next h
    simp only [wraps, hu, Nat.add_eq_zero_iff, Bool.toNat_eq_zero] at hwraps
    obtain ⟨hpendU, hovfU⟩ := exec_keeps_pend_clear hwraps.1 hpend hu
    obtain ⟨hpendT, hovfT⟩ := ih hwraps.2 hpendU h
    exact ⟨hpendT, hovfT.trans hovfU⟩

/-- Settles O32: with no wrap nothing is pending or counted at `IN_ZERO`, which zeroes `lost`; what follows is the
count after a clean `IN_ZERO` (R110). -/
theorem bootWithoutAWrapIsClean : Obligations.BootWithoutAWrapIsClean := by
  intro c draw is z _ hwraps hrun
  obtain ⟨u, hu, hlast⟩ := execAll_append_next hrun
  obtain ⟨z', hzero, hnil⟩ := execAll_cons_next hlast
  cases hnil
  obtain ⟨hpend, hovf⟩ := execAll_keeps_pend_clear hwraps rfl hu
  rw [State.ovf_resetWith] at hovf
  refine ⟨?_, fun js t hjs hrun hlost => ?_⟩
  · have hovf' : z.ovf = u.ovf := exec_keeps_ovf (by decide) hzero
    obtain ⟨-, -, -, rfl⟩ := execInZero_next hzero
    exact ⟨hovf'.trans hovf, hpend, rfl⟩
  · obtain ⟨hcount, -⟩ := overflowCounterFollowsTheTicks u z t js hzero hjs hrun
    simpa [hovf, hpend, hlost] using hcount

/-! ### A wrap in the window of `init` (R208) -/

/-- R102: a wrap with nothing pending. -/
theorem execTick_wrap {s : State} (hm : s.cfg.microsEnabled = true) (hdiv : s.div ≠ .stop)
    (htcnt : s.tcnt = 255#8) (hpend : s.pend = false) :
    exec .tick s = .next { s with tcnt := 0#8, ticks := s.ticks + 1, pend := true } := by
  rw [execTick_run hm hdiv, State.tickOnce_eq]
  simp [htcnt, hpend]

/-- `IDLE` after an `init` in whose window a wrap has come. -/
def State.afterWindowWrap (c : Config) : State :=
  { State.resetWith c 0#8 with div := configDiv c, oie := true, pend := true, ie := true, initDone := true,
                               phase := .idle }

theorem execAll_windowWrap {c : Config} (hm : c.microsEnabled = true) :
    execAll [.inDiv, .tick, .tick, .inOie, .inZero, .inSei] (State.resetWith c 0xFE#8) =
      .next (State.afterWindowWrap c) :=
  have hdiv := configDiv_ne_stop c
  calc execAll [.inDiv, .tick, .tick, .inOie, .inZero, .inSei] (State.resetWith c 0xFE#8)
    _ = execAll [.tick, .tick, .inOie, .inZero, .inSei]
          { State.resetWith c 0xFE#8 with div := configDiv c, phase := .init2 } :=
      execAll_cons_of_next _ (execInDiv_run hm (State.dispatchComesFirst_of_ie rfl) (.inl rfl))
    _ = execAll [.tick, .inOie, .inZero, .inSei]
          { State.resetWith c 0xFF#8 with div := configDiv c, ticks := 1, phase := .init2 } :=
      execAll_cons_of_next _ (execTick_run hm hdiv)
    _ = execAll [.inOie, .inZero, .inSei]
          { State.resetWith c 0#8 with div := configDiv c, pend := true, ticks := 2, phase := .init2 } :=
      execAll_cons_of_next _ (execTick_wrap hm hdiv rfl rfl)
    _ = execAll [.inZero, .inSei]
          { State.resetWith c 0#8 with
            div := configDiv c, oie := true, pend := true, ticks := 2, phase := .init3 } :=
      execAll_cons_of_next _ (execInOie_run hm (State.dispatchComesFirst_of_ie rfl) rfl)
    _ = execAll [.inSei]
          { State.resetWith c 0#8 with div := configDiv c, oie := true, pend := true, phase := .init4 } :=
      execAll_cons_of_next _ (execInZero_run hm (State.dispatchComesFirst_of_ie rfl) rfl)
    _ = execAll [] _ :=
      execAll_cons_of_next _ (execInSei_run_enabled hm (State.dispatchComesFirst_of_ie rfl) rfl)

/-- Settles O33: two ticks from 0xFE wrap before `IN_ZERO` zeroes the counter, and `PEND` waits for `IN_SEI`. -/
theorem wrapInTheInitWindowIsCounted : Obligations.WrapInTheInitWindowIsCounted := by
  intro c hm
  have hirq := execOvfIrq_run ((State.dispatchable_iff (State.afterWindowWrap c)).2 ⟨hm, rfl, rfl, rfl⟩)
  have hovf : (State.afterWindowWrap c).ovf = 0 := Memory.readOvf_nil
  refine ⟨_, _, execAll_windowWrap hm, rfl, rfl, hirq, ?_, rfl⟩
  rw [(execOvfIrq_counts hirq).2, hovf]
  rfl

/-! ### Two interleavings of a read (R145) -/

/-- A wrap after `MS_RAW` that is dispatched before `MS_CLI`. -/
theorem execAll_forwardTear {s : State} (hm : s.cfg.microsEnabled = true) (hp : s.phase = .ms2)
    (hdiv : s.div ≠ .stop) (hoie : s.oie = true) (hie : s.ie = true) (hpend : s.pend = false)
    (htcnt : s.tcnt = 255#8) :
    execAll [.msRaw, .tick, .ovfIrq, .msCli] s = .next
      { s with mem := Memory.writeOvf s.mem (s.ovf + 1), tcnt := 0#8, ticks := s.ticks + 1, pend := false,
               ie := false, t := some s.tcnt, v2 := s.ticks, phase := .ms4 } :=
  calc execAll [.msRaw, .tick, .ovfIrq, .msCli] s
    _ = execAll [.tick, .ovfIrq, .msCli] { s with t := some s.tcnt, v2 := s.ticks, phase := .ms3 } :=
      execAll_cons_of_next _ (execMsRaw_run hm (State.dispatchComesFirst_of_pend hpend) hp)
    _ = execAll [.ovfIrq, .msCli]
          { s with tcnt := 0#8, ticks := s.ticks + 1, pend := true, t := some s.tcnt, v2 := s.ticks,
                   phase := .ms3 } :=
      execAll_cons_of_next _ (execTick_wrap hm hdiv htcnt hpend)
    _ = execAll [.msCli]
          { s with mem := Memory.writeOvf s.mem (s.ovf + 1), tcnt := 0#8, ticks := s.ticks + 1, pend := false,
                   ie := true, t := some s.tcnt, v2 := s.ticks, phase := .ms3 } :=
      execAll_cons_of_next _ (execOvfIrq_run ((State.dispatchable_iff _).2 ⟨hm, hie, rfl, hoie⟩))
    _ = execAll [] _ := execAll_cons_of_next _ (execMsCli_run hm (State.dispatchComesFirst_of_pend rfl) rfl)

/-- A wrap before `MS_RAW` that is not dispatched before `MS_CLI`. -/
theorem execAll_backwardTear {s : State} (hm : s.cfg.microsEnabled = true) (hp : s.phase = .idle)
    (hdiv : s.div ≠ .stop) (hpend : s.pend = false) (htcnt : s.tcnt = 255#8)
    (hheld : s.ie = false ∨ s.cfg.promptDispatch = false) :
    execAll [.tick, .msSave, .msRaw, .msCli] s = .next
      { s with tcnt := 0#8, ticks := s.ticks + 1, pend := true, save := some s.ie, t := some 0#8,
               v2 := s.ticks + 1, ie := false, phase := .ms4,
               faults := if s.initDone then s.faults else { s.faults with useBeforeInit := true } } :=
  have hd : ({ s with tcnt := 0#8, ticks := s.ticks + 1, pend := true } : State).dispatchComesFirst = false :=
    State.dispatchComesFirst_of_held_back (.inr hheld.symm)
  calc execAll [.tick, .msSave, .msRaw, .msCli] s
    _ = execAll [.msSave, .msRaw, .msCli] _ := execAll_cons_of_next _ (execTick_wrap hm hdiv htcnt hpend)
    _ = execAll [.msRaw, .msCli] _ := execAll_cons_of_next _ (execMsSave_run hm (.inl hp) hd)
    _ = execAll [.msCli] _ := execAll_cons_of_next _ (execMsRaw_run hm hd rfl)
    _ = execAll [] _ := execAll_cons_of_next _ (execMsCli_run hm hd rfl)

/-! ### Reads that a run from reset reaches (R143, R144) -/

/-- Where `IN_ZERO` takes its step in the shortest boot, which makes no tick. -/
def State.shortestBoot (c : Config) (draw : U8) : State :=
  { State.resetWith c draw with div := configDiv c, oie := true, phase := .init3 }

/-- `IDLE` after a clean `init`, before the tick that wraps first. -/
def State.beforeFirstWrap (c : Config) : State :=
  { State.resetWith c 255#8 with div := configDiv c, oie := true, ie := true, initDone := true, phase := .idle,
                                 ticks := 255 }

section
variable {c : Config} (draw : U8) (hm : c.microsEnabled = true)
include hm

theorem execAll_shortestBoot :
    execAll [.inDiv, .inOie] (State.resetWith c draw) = .next (State.shortestBoot c draw) :=
  calc execAll [.inDiv, .inOie] (State.resetWith c draw)
    _ = execAll [.inOie] _ :=
      execAll_cons_of_next _ (execInDiv_run hm (State.dispatchComesFirst_of_ie rfl) (.inl rfl))
    _ = execAll [] _ := execAll_cons_of_next _ (execInOie_run hm (State.dispatchComesFirst_of_ie rfl) rfl)

theorem execAll_beforeFirstWrap :
    execAll (.inZero :: .inSei :: List.replicate 255 .tick) (State.shortestBoot c draw) =
      .next (State.beforeFirstWrap c) :=
  calc execAll (.inZero :: .inSei :: List.replicate 255 .tick) (State.shortestBoot c draw)
    _ = execAll (.inSei :: List.replicate 255 .tick) _ :=
      execAll_cons_of_next _ (execInZero_run hm (State.dispatchComesFirst_of_ie rfl) rfl)
    _ = execAll (List.replicate 255 .tick) _ :=
      execAll_cons_of_next _ (execInSei_run_enabled hm (State.dispatchComesFirst_of_ie rfl) rfl)
    _ = _ := execAll_ticks hm (configDiv_ne_stop c) 255 (Nat.lt_succ_self 255)

omit hm in
theorem inZero_not_mem_ticks_append (n : Nat) {js : List Instr} (hjs : Instr.inZero ∉ js) :
    Instr.inZero ∉ .inSei :: List.replicate n .tick ++ js := by
  simp [List.mem_replicate, hjs]

/-- A read in a run from the state before the first wrap is a read under R143's premises in a run from reset. -/
theorem reachesRead_of_beforeFirstWrap {saved : Bool} {outcome : ReadOutcome} {js : List Instr} {s t : State}
    (hrun : execAll js (State.beforeFirstWrap c) = .next s) (hjs : Instr.inZero ∉ js)
    (hread : exec .msOvf s = .next t) (hlost : t.lost = 0) (hticks : t.ticks < t.v2 + 256)
    (hsave : t.save = some saved) (houtcome : t.readOutcome = outcome) : ReachesRead c draw saved outcome := by
  have hboot := execAll_shortestBoot draw hm
  refine ⟨_, _, s, t, .inSei :: List.replicate 255 .tick ++ js, hboot, ?_, hlost, hticks, hsave, houtcome⟩
  exact
    { inv := execAll_keeps_stateInv (stateInv_resetWith c draw) hboot
      ovfZero := Memory.readOvf_nil
      pendClear := rfl
      run := (execAll_append_of_next js (execAll_beforeFirstWrap draw hm)).trans hrun
      lastZero := inZero_not_mem_ticks_append 255 hjs
      read := hread }

/-- R144: the count of the dispatched wrap goes with the raw value from before it. -/
theorem reachesRead_forwardTear : ReachesRead c draw true .forwardTear := by
  have hrun : execAll [.msSave, .msRaw, .tick, .ovfIrq, .msCli] (State.beforeFirstWrap c) = _ :=
    (execAll_cons_of_next _ (execMsSave_run hm (.inl rfl) (State.dispatchComesFirst_of_pend rfl))).trans
      (execAll_forwardTear hm rfl (configDiv_ne_stop c) rfl rfl rfl rfl)
  refine reachesRead_of_beforeFirstWrap draw hm hrun (by decide)
    (execMsOvf_run hm (State.dispatchComesFirst_of_ie rfl) rfl) rfl (show 256 < 255 + 256 by decide) rfl
    ((State.readOutcome_forwardTear_iff _).2 ?_)
  simp [State.tear, State.wrapsBetweenReads, State.beforeFirstWrap, State.resetWith]

/-- R144, `SAVE = 0`: the host's critical section holds the dispatch back. -/
theorem reachesRead_backwardTear_masked : ReachesRead c draw false .backwardTear := by
  have hrun : execAll [.envCli, .tick, .msSave, .msRaw, .msCli] (State.beforeFirstWrap c) = _ :=
    (execAll_cons_of_next _ (execEnvCli_run (.inr rfl) (State.dispatchComesFirst_of_pend rfl))).trans
      (execAll_backwardTear hm rfl (configDiv_ne_stop c) rfl rfl (.inl rfl))
  refine reachesRead_of_beforeFirstWrap draw hm hrun (by decide)
    (execMsOvf_run hm (State.dispatchComesFirst_of_ie rfl) rfl) rfl (show 256 < 256 + 256 by decide) rfl
    ((State.readOutcome_backwardTear_iff _).2 ?_)
  simp [State.tear, State.wrapsBetweenReads, State.beforeFirstWrap, State.resetWith]

/-- R144, `SAVE = 1`: dispatch that is not prompt may come after `MS_CLI`. -/
theorem reachesRead_backwardTear (hprompt : c.promptDispatch = false) : ReachesRead c draw true .backwardTear := by
  have hrun := execAll_backwardTear (s := State.beforeFirstWrap c) hm rfl (configDiv_ne_stop c) rfl rfl
    (.inr hprompt)
  refine reachesRead_of_beforeFirstWrap draw hm hrun (by decide)
    (execMsOvf_run hm (State.dispatchComesFirst_of_ie rfl) rfl) rfl (show 256 < 256 + 256 by decide) rfl
    ((State.readOutcome_backwardTear_iff _).2 ?_)
  simp [State.tear, State.wrapsBetweenReads, State.beforeFirstWrap, State.resetWith]

end

/-- R145: a read that is reached with another outcome denies MC §3's invariant. -/
theorem not_readsAreConsistent_of_reachesRead {c : Config} {draw : U8} {saved : Bool} {outcome : ReadOutcome}
    (hreach : ReachesRead c draw saved outcome) (hne : outcome ≠ .consistent) : ¬ ReadsAreConsistent c := by
  intro hconsistent
  obtain ⟨boot, z, s, t, is, hboot, hread, hlost, hticks, -, houtcome⟩ := hreach
  exact hne (houtcome.symm.trans (hconsistent z s t is (execAll_keeps_cfg hboot) hread hlost hticks))

/-- Settles O58: the run of `execAll_forwardTear` inside an activation, that run from reset, and the read it reaches
against MC §3's invariant. -/
theorem forwardTearIsAdmitted : Obligations.ForwardTearIsAdmitted := by
  refine ⟨fun s hm hp hdiv hoie hie hpend htcnt => ?_, fun c draw hm => reachesRead_forwardTear draw hm, fun c hm =>
    not_readsAreConsistent_of_reachesRead (reachesRead_forwardTear 0#8 hm) (by decide)⟩
  have hrun :=
    calc execAll [.msSave, .msRaw, .tick, .ovfIrq, .msCli, .msOvf, .msRestore, .msScale] s
      _ = execAll ([.msRaw, .tick, .ovfIrq, .msCli] ++ [.msOvf, .msRestore, .msScale]) _ :=
        execAll_cons_of_next _ (execMsSave_run hm (.inl hp) (State.dispatchComesFirst_of_pend hpend))
      _ = execAll [.msOvf, .msRestore, .msScale] _ :=
        execAll_append_of_next _ (execAll_forwardTear hm rfl hdiv hoie hie hpend htcnt)
      _ = _ := execAll_after_msCli hm rfl rfl rfl rfl (State.dispatchComesFirst_of_pend rfl)
  refine ⟨_, hrun, ?_, Memory.readOvf_writeOvf _ _, rfl⟩
  show some (convert (Memory.readOvf (Memory.writeOvf s.mem (s.ovf + 1))) s.tcnt (configK s.cfg)) = _
  rw [Memory.readOvf_writeOvf, htcnt]

/-- Settles O59: after a wrap that is held back nothing interleaves the read, so `execAll_micros` is the rest; from
reset the read is reached under a mask, and without one where dispatch is not prompt. -/
theorem backwardTearIsAdmitted : Obligations.BackwardTearIsAdmitted := by
  refine ⟨fun s hm hp hdiv hpend htcnt hheld => ?_, fun c draw hm =>
    ⟨reachesRead_backwardTear_masked draw hm, reachesRead_backwardTear draw hm⟩⟩
  have hrun :=
    (execAll_cons_of_next [.msSave, .msRaw, .msCli, .msOvf, .msRestore, .msScale]
      (execTick_wrap hm hdiv htcnt hpend)).trans
      (execAll_micros hm (.inl hp) (State.dispatchComesFirst_of_held_back (.inr hheld.symm)))
  exact ⟨_, hrun, rfl, rfl, rfl⟩

end Sys2Proof.Machine
end
